-- ==== Sys2Proof/Word.lean ====
section
/-!
DEFINITION. Word.lean: the two bit-vector widths the spec's values have (00_scope.md R9, R11): the byte of the input
buffer and of the checksum, and the 16-bit word of addresses, lengths, counts and integer fields. All values are
unsigned (R11). Offset arithmetic is NOT done on these: it is done on `Nat` and never wraps (R13, R14).
-/

namespace Sys2Proof

/-- A byte of the input buffer, unsigned (00_scope.md R11). -/
abbrev Byte := BitVec 8

/-- A 16-bit value: a buffer address or length, a record count, an integer field (00_scope.md R9). -/
abbrev Word := BitVec 16

end Sys2Proof
end

