-- ==== Sys2Proof/Config.lean ====
section
/-!
DEFINITION. Config.lean: the block's fixed constants (00_scope.md R8, "must be reproduced bit-exact") and the two FREE
VALUES of the model, constants without a body. The decided tables P_DP_STATE_LAYOUT, P_CFG_LAYOUT and P_SI_TYPE (R10)
stand in Machine/Params.lean.
-/

namespace Sys2Proof.Config

/-- FT_START, the FT1.2 start marker (R8). -/
def ftStart : Byte := 0x68

/-- FT_END, the FT1.2 end marker (R8). -/
def ftEnd : Byte := 0x16

/-- BAOS_MAIN, the BAOS main-service marker (R8). -/
def baosMain : Byte := 0xF0

/-- PAYLOAD_BASE: the payload starts at the frame start + 5 (R8). -/
def payloadBase : Nat := 5

/-- TRAILER_BASE: the trailer is at frame start + 5 + declared length (R8, 90_conflicts.md C1). -/
def trailerBase : Nat := 5

/-- SCAN_WINDOW: the candidate offsets are 0..4 (R8). -/
def scanWindow : Nat := 5

/-- MIN_LEN: the minimum valid telegram length in bytes (R8). -/
def minLen : Nat := 10

/-- LEN_MAX: the input buffer has at most 65535 bytes, so its addresses are 0..65534 (R8, R20, R60). -/
def lenMax : Nat := 65535

/-- FREE VALUE. The byte a buffer read returns where the spec says only "any byte" (assumption 2): the step's number,
the read's number among the reads of that address in the step, and the address stand for the occasion of the read.
R334 (bytes changed by the host while BUSY), R335 (an address that nothing backs) and R43 (buffer contents after
reset) are the three cases. It has no body, so nothing can be proved of its value. -/
opaque openByte : Nat → Nat → Nat → Byte

/-- FREE VALUE. What the result read port returns while BUSY = 1 (R336, assumption 3): the step's number and the
register number stand for the occasion of the read. It has no body, so nothing can be proved of its value. -/
opaque busyRead : Nat → BitVec 4 → Word

end Sys2Proof.Config
end

