-- ==== Sys2Proof/Syntax.lean ====
section
/-!
DEFINITION. Syntax.lean: what the block decodes. `Instr` has one constructor per row of spec/opcode_table.json: the 18
recognised sub-service codes (30_encoding.md R96). A row's encoding is its one code byte (the table gives it no
operand field); the telegram's operands (start-id, count, body) are bytes of the input buffer which the instruction's
meaning reads through the truncation guard, so they are no part of the syntax. `Frame` is the syntax of one input
buffer that carries one telegram (R81, R102, R103).
-/

namespace Sys2Proof

/-- The 18 recognised sub-services, in the order of spec/opcode_table.json (30_encoding.md R96). -/
inductive Instr where
  | getServerItemReq               -- 0x01
  | setServerItemReq               -- 0x02
  | getDatapointDescriptionReq     -- 0x03
  | getDescriptionStringReq        -- 0x04
  | getDatapointValueReq           -- 0x05
  | setDatapointValueReq           -- 0x06
  | getParameterByteReq            -- 0x07
  | request08Req                   -- 0x08
  | getServerItemRes               -- 0x81
  | setServerItemRes               -- 0x82
  | getDatapointDescriptionRes     -- 0x83
  | getDescriptionStringRes        -- 0x84
  | getDatapointValueRes           -- 0x85
  | setDatapointValueRes           -- 0x86
  | getParameterByteRes            -- 0x87
  | response88Res                  -- 0x88
  | datapointValueInd              -- 0xC1
  | serverItemInd                  -- 0xC2
deriving DecidableEq, Repr

/-- Every instruction, in table order. -/
def Instr.all : List Instr :=
  [.getServerItemReq, .setServerItemReq, .getDatapointDescriptionReq, .getDescriptionStringReq,
   .getDatapointValueReq, .setDatapointValueReq, .getParameterByteReq, .request08Req,
   .getServerItemRes, .setServerItemRes, .getDatapointDescriptionRes, .getDescriptionStringRes,
   .getDatapointValueRes, .setDatapointValueRes, .getParameterByteRes, .response88Res,
   .datapointValueInd, .serverItemInd]

/-- The four valid control codes, by direction and parity (R83). -/
inductive Control where
  | txOdd | txEven | rxOdd | rxEven
deriving DecidableEq, Repr

/-- One input buffer holding one FT1.2 frame with a BAOS telegram of a recognised sub-service (R80, R81, R86, R103):
leading junk, the control code, the sub-service, the payload bytes after the sub-service byte, trailing bytes. -/
structure Frame where
  junk : List Byte
  control : Control
  sub : Instr
  operands : List Byte
  trailing : List Byte
deriving DecidableEq, Repr

end Sys2Proof
end

