-- ==== Sys2Proof/WellFormed.lean ====
section
/-!
DEFINITION. WellFormed.lean: which terms of the syntax are well formed. An instruction has no operand field
(spec/opcode_table.json: "fields": []), so every `Instr` is well formed; what can be ill formed is a frame.
-/

namespace Sys2Proof

/-- Every recognised sub-service is well formed: its one byte has no field that could be out of range (R96). -/
def Instr.wellFormed (i : Instr) : Bool := Instr.all.contains i

/-- The payload length in bytes, which a well-formed frame declares (R82, R103): the main service, the sub-service
and the operand bytes. -/
def Frame.payloadLength (f : Frame) : Nat := 2 + f.operands.length

/-- The whole buffer's length: the junk, 5 header bytes, the payload, 2 trailer bytes, the trailing bytes (R82). -/
def Frame.totalLength (f : Frame) : Nat :=
  f.junk.length + 7 + f.payloadLength + f.trailing.length

/-- The junk is at most 4 bytes, so that the frame start lies in the scan window (R80, R130). -/
def Frame.junkShort (f : Frame) : Bool := decide (f.junk.length < Config.scanWindow)

/-- No junk byte is a start marker, so that no earlier candidate can pass (R131). Sufficient, not necessary. -/
def Frame.junkClean (f : Frame) : Bool := f.junk.all (· != Config.ftStart)

/-- The payload length fits the declared-length byte: m <= 255 (R103). -/
def Frame.payloadFits (f : Frame) : Bool := decide (f.payloadLength ≤ 255)

/-- The buffer has at most 65535 bytes (R20). -/
def Frame.bufferFits (f : Frame) : Bool := decide (f.totalLength ≤ Config.lenMax)

/-- A well-formed frame: all four checks hold. -/
def Frame.wellFormed (f : Frame) : Bool :=
  f.junkShort && f.junkClean && f.payloadFits && f.bufferFits

end Sys2Proof
end

