-- ==== Sys2Proof/Decode.lean ====
section
/-!
DEFINITION. Decode.lean: the opcode map (30_encoding.md R96) read in both directions. `decode` is total on any bytes
and rejects by name; `encode` gives an instruction's bytes; `Frame.bytes` writes a whole input buffer (R103).
-/

namespace Sys2Proof

/-- Why a byte sequence is no instruction. -/
inductive DecodeError where
  /-- No byte is present where the sub-service byte is expected (R192: the guard fails). -/
  | absent
  /-- The byte is none of the 18 recognised codes (R100, R172). -/
  | unknownSub (code : Byte)
deriving DecidableEq, Repr

/-- The code of a sub-service (30_encoding.md R96, spec/opcode_table.json). -/
def Instr.code : Instr → Byte
  | .getServerItemReq => 0x01
  | .setServerItemReq => 0x02
  | .getDatapointDescriptionReq => 0x03
  | .getDescriptionStringReq => 0x04
  | .getDatapointValueReq => 0x05
  | .setDatapointValueReq => 0x06
  | .getParameterByteReq => 0x07
  | .request08Req => 0x08
  | .getServerItemRes => 0x81
  | .setServerItemRes => 0x82
  | .getDatapointDescriptionRes => 0x83
  | .getDescriptionStringRes => 0x84
  | .getDatapointValueRes => 0x85
  | .setDatapointValueRes => 0x86
  | .getParameterByteRes => 0x87
  | .response88Res => 0x88
  | .datapointValueInd => 0xC1
  | .serverItemInd => 0xC2

/-- The sub-service a byte selects: the inverse reading of the opcode map, written out on the byte's number (R96);
every other byte is rejected by name (R100, R172). -/
def decodeSub (b : Byte) : Except DecodeError Instr :=
  match b.toNat with
  | 0x01 => .ok .getServerItemReq
  | 0x02 => .ok .setServerItemReq
  | 0x03 => .ok .getDatapointDescriptionReq
  | 0x04 => .ok .getDescriptionStringReq
  | 0x05 => .ok .getDatapointValueReq
  | 0x06 => .ok .setDatapointValueReq
  | 0x07 => .ok .getParameterByteReq
  | 0x08 => .ok .request08Req
  | 0x81 => .ok .getServerItemRes
  | 0x82 => .ok .setServerItemRes
  | 0x83 => .ok .getDatapointDescriptionRes
  | 0x84 => .ok .getDescriptionStringRes
  | 0x85 => .ok .getDatapointValueRes
  | 0x86 => .ok .setDatapointValueRes
  | 0x87 => .ok .getParameterByteRes
  | 0x88 => .ok .response88Res
  | 0xC1 => .ok .datapointValueInd
  | 0xC2 => .ok .serverItemInd
  | _ => .error (.unknownSub b)

/-- Decode the instruction at the head of a byte sequence, with the bytes that follow it: the telegram's operands. -/
def decode : List Byte → Except DecodeError (Instr × List Byte)
  | [] => .error .absent
  | b :: rest =>
    match decodeSub b with
    | .ok i => .ok (i, rest)
    | .error e => .error e

/-- The bytes of an instruction: its one code byte (R96). -/
def encode (i : Instr) : List Byte := [i.code]

/-- The byte of a control code (30_encoding.md R83). -/
def Control.byte : Control → Byte
  | .txOdd => 0x73
  | .txEven => 0x53
  | .rxOdd => 0xF3
  | .rxEven => 0xD3

/-- CTRL_SET, the valid control bytes (00_scope.md R8, R83). -/
def ctrlSet : List Byte := [0x73, 0x53, 0xF3, 0xD3]

/-- The sum of a byte list, mod 256 (R103, R120). -/
def byteSum : List Byte → Byte
  | [] => 0
  | b :: rest => b + byteSum rest

/-- A frame around a control byte and a payload: `68 m m 68 C p[0] .. p[m-1] CS 16` (30_encoding.md R103). -/
def frameBytes (ctrl : Byte) (payload : List Byte) : List Byte :=
  let m : Byte := BitVec.ofNat 8 payload.length
  [Config.ftStart, m, m, Config.ftStart, ctrl] ++ payload ++ [ctrl + byteSum payload, Config.ftEnd]

/-- The payload of a frame: the main service, the sub-service code, the operand bytes (R86). -/
def Frame.payload (f : Frame) : List Byte := Config.baosMain :: (encode f.sub ++ f.operands)

/-- The input buffer a frame stands for (R80, R81, R103). -/
def Frame.bytes (f : Frame) : List Byte :=
  f.junk ++ frameBytes f.control.byte f.payload ++ f.trailing

/-- The low `n` bytes of a number, the least significant first: how spec/opcode_table.json numbers the bits of an
instruction (bit 0 is the least significant bit of the first byte). -/
def numberBytes : Nat → Nat → List Byte
  | 0, _ => []
  | n + 1, w => BitVec.ofNat 8 w :: numberBytes n (w / 256)

/-- The operand bytes of zeros that follow an instruction's own bits in the host's question: start-id, count and one
body byte (the longest run of fixed operands, R87, R89). -/
def zeroOperands : List Byte := List.replicate 5 0

/-- The bytes of a table word, as the buffer holds them from the sub-service byte on: the row's bytes, then zeros. -/
def tableBytes (nbits w : Nat) : List Byte := numberBytes (nbits / 8) w ++ zeroOperands

/-- The instruction the decoder reads from a table word. -/
def decodeTableWord (nbits w : Nat) : Option Instr :=
  match decode (tableBytes nbits w) with
  | .ok (i, _) => some i
  | .error _ => none

end Sys2Proof
end

