-- ==== Sys2Proof/Machine/Params.lean ====
section
/-!
DEFINITION. Machine/Params.lean: the tables that the block takes as configuration (00_scope.md R10,
93_implementation_defined.md I1, I2, I8) and the values that the spec decided for them. They are fixed when the hardware is built (20_memory.md R71):
the state carries them and no step writes them.
-/

namespace Sys2Proof.Machine

/-- Bits `hi` down to `lo` of a value: one mask/shift pair (30_encoding.md R99). -/
structure BitRange where
  hi : Nat
  lo : Nat
deriving DecidableEq, Repr

/-- `v[hi:lo]`, zero-extended: `(v >> lo) & mask` (00_scope.md R11, 30_encoding.md R99). -/
def bitsOf (r : BitRange) (v : Word) : Word := (v >>> r.lo) &&& BitVec.ofNat 16 (2 ^ (r.hi + 1 - r.lo) - 1)

/-- P_DP_STATE_LAYOUT: where the four fields of the datapoint state byte stand (44_record_streams.md R231). -/
structure DpStateLayout where
  valid : BitRange
  updated : BitRange
  readReq : BitRange
  trans : BitRange
deriving DecidableEq, Repr

/-- P_CFG_LAYOUT: where the seven fields of the descriptor config-flags byte stand (44_record_streams.md R236). -/
structure CfgLayout where
  prio : BitRange
  comm : BitRange
  read : BitRange
  write : BitRange
  rinit : BitRange
  trans : BitRange
  updresp : BitRange
deriving DecidableEq, Repr

/-- The types of server item data (44_record_streams.md R225). -/
inductive ViewType where
  | raw | version | flag | baud | address
deriving DecidableEq, Repr

/-- The configuration (00_scope.md R10). -/
structure Params where
  /-- P_DP_STATE_LAYOUT. -/
  dpState : DpStateLayout
  /-- P_CFG_LAYOUT. -/
  cfg : CfgLayout
  /-- P_SI_TYPE: server item ids with their types; an id that is not listed is RAW. -/
  siType : List (Nat × ViewType)
deriving DecidableEq, Repr

/-- The decided value of P_DP_STATE_LAYOUT (R231, decision D19; PRESUMED, assumption 17). -/
def pDpStateLayout : DpStateLayout := { valid := ⟨0, 0⟩, updated := ⟨1, 1⟩, readReq := ⟨2, 2⟩, trans := ⟨3, 3⟩ }

/-- The decided value of P_CFG_LAYOUT (R236, decision D20; PRESUMED, assumption 17). -/
def pCfgLayout : CfgLayout :=
  { prio := ⟨1, 0⟩, comm := ⟨2, 2⟩, read := ⟨3, 3⟩, write := ⟨4, 4⟩, rinit := ⟨5, 5⟩, trans := ⟨6, 6⟩, updresp := ⟨7, 7⟩ }

/-- The decided value of P_SI_TYPE (the table of R225, decision D21; PRESUMED, assumption 17). -/
def pSiType : List (Nat × ViewType) :=
  [(1, .raw), (2, .version), (3, .version), (4, .raw), (5, .raw), (6, .raw), (7, .version), (8, .raw), (9, .raw),
   (10, .flag), (11, .raw), (12, .raw), (13, .baud), (14, .raw), (15, .flag), (16, .version), (17, .flag),
   (18, .version), (19, .version), (20, .address)]

/-- The configuration that the spec decided. -/
def decidedParams : Params := { dpState := pDpStateLayout, cfg := pCfgLayout, siType := pSiType }

/-- The type of a server item id; "any other" id is RAW (R225). -/
def viewOf (table : List (Nat × ViewType)) (id : Nat) : ViewType := (table.lookup id).getD .raw

end Sys2Proof.Machine
end

