-- ==== Sys2Proof/Machine/State.lean ====
section
/-!
DEFINITION. Machine/State.lean: the state of the block, of its buffer and of the host's side of its ports, as plain
data, and the state after reset. Every register of 10_state.md R21, R34-R39, R43 and R48 is a field; the fields that
are the MODEL's own (the position inside a phase, the events already determined and not yet presented, the host's
schedule, the sink's record, the step number) say so.
-/

namespace Sys2Proof.Machine

/-- The input buffer as stored bytes: (address, byte) pairs, addresses strictly rising (`Memory.wf` in Ops.lean). An
address that is not listed has never been stored to: it reads as a free value (assumption 2). -/
abbrev Memory := List Host.Cell

/-- The telegram-level phases, the values of the register PHASE (45_orchestration.md R261). Code 7 does not exist. -/
inductive Phase where
  | idle | scanning | foundFrame | headerDecoded | payloadDecoded | trailerChecked | done
deriving DecidableEq, Repr

/-- Where FOUND_FRAME's work stands (R265). -/
inductive FoundPos where
  | verify   -- trailer offset and end-marker check, not done yet
  | leave    -- done: the next unit changes the phase
deriving DecidableEq, Repr

/-- Where HEADER_DECODED's work stands (R266, R192). -/
inductive HeaderPos where
  | field (k : Nat)   -- header field k is the next to emit, k = 0..5
  | sub               -- the sub-service byte is the next to read
  | dispatch          -- the mux is the next to be evaluated
  | leave
deriving DecidableEq, Repr

/-- Where the body decode stands (44_record_streams.md R201-R209): the position inside the running instruction. -/
inductive BodyPos where
  | listHeader          -- start-id or start-index (R201)
  | countField          -- the count (R202)
  | select              -- body selection (R204)
  | record              -- the loop test and the next record's guard (R206, R207)
  | lead (k : Nat)      -- field k of the record's fixed leading part (EMIT_PREFIX of R206)
  | varPart             -- the variable part and its guard (R208)
  | view (n : Nat)      -- the typed view of a part of length n (R225)
  | advance (n : Nat)   -- the advance by the stride of a part of length n (R209)
  | leave               -- the body has ended
deriving DecidableEq, Repr

/-- Where TRAILER_CHECKED's work stands (42_integrity.md R154). -/
inductive TrailerPos where
  | declared   -- the declared checksum byte
  | compare    -- the computed sum and the compare
  | endMark    -- the end-marker field
  | leave
deriving DecidableEq, Repr

/-- The register PHASE together with the model's position inside the phase's work. `Pos.phase` is the register. -/
inductive Pos where
  | idle
  | scanning
  | foundFrame (p : FoundPos)
  | header (p : HeaderPos)
  | payload (p : BodyPos)
  | trailer (p : TrailerPos)
  | done
deriving DecidableEq, Repr

/-- The registers that `start` clears and reset clears (10_state.md R43, R44): LEN, the result register file and the
working registers. PHASE and PEND stand apart, as R44 has it. -/
structure Regs where
  /-- LEN, the sampled buffer length (R20). -/
  len : Word
  /-- Result register 0, STATUS (R40). -/
  status : BitVec 16
  /-- Result register 1, START_OFF (R22). -/
  startOff : BitVec 3
  /-- Result register 2, DLEN (R23). -/
  dlen : BitVec 8
  /-- Result register 3, CTRL (R24). -/
  ctrl : BitVec 8
  /-- Result register 4, TOFF (R25). -/
  toff : BitVec 16
  /-- Result register 5, SUB (R26). -/
  sub : BitVec 8
  /-- Result register 6, KIND (R27). -/
  kind : BitVec 4
  /-- Result register 7, START_ID (R28). -/
  startId : BitVec 16
  /-- Result register 8, COUNT (R29). -/
  count : BitVec 16
  /-- Result register 9, ERRCODE (R30). -/
  errcode : BitVec 8
  /-- Result register 10, CSUM_DECL (R31). -/
  csumDecl : BitVec 8
  /-- Result register 11, CSUM_CALC (R32). -/
  csumCalc : BitVec 8
  /-- Result register 12, REC_DONE (R33). -/
  recDone : BitVec 16
  /-- Working register CUR, the byte cursor (R34). -/
  cur : BitVec 16
  /-- Working register IDX, the record index (R35). -/
  idx : BitVec 16
  /-- Working register SCAN_I, the candidate offset (R37). -/
  scanI : BitVec 3
  /-- Working register FT_FOUND, the locator's flag (R38). -/
  ftFound : Bool
  /-- Working register CSUM_ACC, the checksum accumulator (R39). -/
  csumAcc : BitVec 8
deriving DecidableEq, Repr

/-- The wires of one event, as PEND carries them (10_state.md R48, 45_orchestration.md R268). For a DIAG event `off`
and `val` carry the two values, `len` the severity and `tag` the diagnostic code. -/
structure Wires where
  /-- EV_KIND: false = FIELD, true = DIAG. -/
  diag : Bool
  /-- EV_OFF. -/
  off : BitVec 16
  /-- EV_LEN. -/
  len : BitVec 16
  /-- EV_TAG. -/
  tag : BitVec 8
  /-- EV_RAW. -/
  raw : Bool
  /-- EV_VAL. -/
  val : BitVec 16
deriving DecidableEq, Repr

/-- PEND, the event output register (R48). -/
structure Pend where
  /-- EV_VALID. -/
  valid : Bool
  /-- The other wires. -/
  wires : Wires
deriving DecidableEq, Repr

/-- One byte stored by the host into its buffer (20_memory.md R61, R68). The addresses of the address space are
0..65534 (R60), so a store has no other address. -/
structure HostStore where
  addr : Fin 65535
  byte : Byte
deriving DecidableEq, Repr

/-- What the host drives in one step: the input ports of 10_state.md R49 (BRDATA is the buffer itself), a byte it may
store into its buffer, and the block's own latency choice P_LATENCY (R279) as one more oracle bit. -/
structure Pins where
  /-- START. -/
  start : Bool
  /-- LEN_IN. -/
  lenIn : Word
  /-- RST. -/
  rst : Bool
  /-- RREG, the result register the host reads. -/
  rreg : BitVec 4
  /-- EV_READY, the sink's acceptance: P_SINK_READY, a host oracle (R275). -/
  evReady : Bool
  /-- A byte the host stores into its buffer before this step's other inputs act. -/
  store : Option HostStore
  /-- P_LATENCY: true = the block, though free to work, takes this step without progress (R279, assumption 5). It lasts
  one step and the script is finite, so the block is held for finitely many steps only. -/
  wait : Bool
deriving DecidableEq, Repr

/-- The whole state. -/
structure State where
  /-- LEN, the result register file and the working registers. -/
  regs : Regs
  /-- PHASE (R36), with the model's position inside the phase. -/
  pos : Pos
  /-- PEND, the event output register (R48). -/
  pend : Pend
  /-- MODEL's own: events whose values are already fixed by the last read and that wait for PEND (assumption 4). -/
  burst : List Wires
  /-- The host-owned input buffer (R20, R60). -/
  buf : Memory
  /-- The configuration, fixed when the hardware is built: no step writes it (00_scope.md R10, 20_memory.md R71). -/
  params : Params
  /-- MODEL's own: the host changes a byte of the running transaction's buffer before its DONE (R334, assumption 2). -/
  unstable : Bool
  /-- MODEL's own: what the host drives in this step. -/
  pins : Pins
  /-- MODEL's own: what the host drives in the following steps; when it is empty the ports keep their levels and `wait`
  falls (assumption 5). -/
  script : List Pins
  /-- MODEL's own: the events the sink has accepted, oldest first (R267, R316). -/
  sink : List Wires
  /-- MODEL's own: the number of steps taken, the occasion of a free value. It is no counter of the block (R314). -/
  tick : Nat
deriving DecidableEq, Repr

/-- Why the machine stops with a fault. -/
inductive Fault where
  /-- Raised by `State.readByte`: a byte is to be read at an address >= LEN. 20_memory.md R62 says that no such read is
  ever issued, so no reachable state raises it. SAFE: the model stops where the spec gives no behaviour. -/
  | readPastLen (addr : Nat)
  /-- Raised by the meanings of the instructions (`bodyUnit`): the state is not at a position of the payload phase, in
  which alone a body is decoded (R200, R270). `step` calls a meaning only in that phase. SAFE: the spec gives a body no
  effect elsewhere. -/
  | outsidePayload
deriving DecidableEq, Repr

/-- Why an instruction has no meaning. -/
inductive Refusal where
  /-- Raised by no arm of this model: every recognised sub-service has its meaning. SAFE. -/
  | notModelled (mnemonic : String)
deriving DecidableEq, Repr

/-- The reset values of the registers (10_state.md R43): all zero, which is the value R43 states for each. -/
def Regs.reset : Regs :=
  { len := 0, status := 0, startOff := 0, dlen := 0, ctrl := 0, toff := 0, sub := 0, kind := 0, startId := 0,
    count := 0, errcode := 0, csumDecl := 0, csumCalc := 0, recDone := 0, cur := 0, idx := 0, scanI := 0,
    ftFound := false, csumAcc := 0 }

/-- The wires with every field 0 (R48: "Reset value: EV_VALID = 0, other fields 0"). -/
def Wires.zero : Wires := { diag := false, off := 0, len := 0, tag := 0, raw := false, val := 0 }

/-- PEND after reset: empty, other fields 0 (R48, R43). -/
def Pend.reset : Pend := { valid := false, wires := Wires.zero }

/-- The host's side when nothing is asserted and the sink accepts (DESIGN CHOICE, assumption 6): the spec gives the
input ports no reset level. -/
def Pins.idle : Pins :=
  { start := false, lenIn := 0, rst := false, rreg := 0, evReady := true, store := none, wait := false }

/-- The machine right after reset (R43, R330): every register 0, PHASE = IDLE, PEND empty, nothing in the buffer, the
configuration as the spec decided it (assumption 17). The
model's own fields are empty; the pins are at `Pins.idle` (assumption 6). -/
def State.reset : State :=
  { regs := Regs.reset, pos := .idle, pend := Pend.reset, burst := [], buf := [], params := decidedParams,
    unstable := false, pins := Pins.idle, script := [], sink := [], tick := 0 }

end Sys2Proof.Machine
end

