-- ==== Sys2Proof/Machine/Mux.lean ====
section
/-!
DEFINITION. Machine/Mux.lean: the sub-service dispatch mux (43_dispatch.md R170, R171, R173), a pure function of SUB.
-/

namespace Sys2Proof.Machine

/-- The decoder kinds (43_dispatch.md R171). -/
inductive Kind where
  | none | hdrReq | hdrRes | hdrFilter | serverItems | dpValueCmd | dpValueState | dpDescriptor | descString | paramByte
deriving DecidableEq, Repr

/-- The code of a kind, as result register 6 holds it (R171). Codes 10-15 are never produced. -/
def Kind.code : Kind → BitVec 4
  | .none => 0
  | .hdrReq => 1
  | .hdrRes => 2
  | .hdrFilter => 3
  | .serverItems => 4
  | .dpValueCmd => 5
  | .dpValueState => 6
  | .dpDescriptor => 7
  | .descString => 8
  | .paramByte => 9

/-- KIND_TABLE for the recognised sub-services (R171). -/
def kindTable : Instr → Kind
  | .getServerItemReq => .hdrReq
  | .setServerItemReq => .serverItems
  | .getDatapointDescriptionReq => .hdrReq
  | .getDescriptionStringReq => .hdrReq
  | .getDatapointValueReq => .hdrFilter
  | .setDatapointValueReq => .dpValueCmd
  | .getParameterByteReq => .hdrReq
  | .request08Req => .hdrReq
  | .getServerItemRes => .serverItems
  | .setServerItemRes => .hdrRes
  | .getDatapointDescriptionRes => .dpDescriptor
  | .getDescriptionStringRes => .descString
  | .getDatapointValueRes => .dpValueState
  | .setDatapointValueRes => .hdrRes
  | .getParameterByteRes => .paramByte
  | .response88Res => .hdrRes
  | .datapointValueInd => .dpValueState
  | .serverItemInd => .serverItems

/-- The mux's three outputs (R170). -/
structure MuxOut where
  kind : Kind
  zc : Bool
  idxhdr : Bool
deriving DecidableEq, Repr

/-- `DISPATCH(sub)` (R170): KIND from the table and NONE for every other code, ZC = bit 7 where KIND is not NONE,
IDXHDR for 0x07 and 0x87. -/
def dispatch (sub : Byte) : MuxOut :=
  let kind := match decodeSub sub with
    | .ok i => kindTable i
    | .error _ => Kind.none
  { kind := kind,
    zc := if kind = .none then false else sub.getLsbD 7,
    idxhdr := sub == 0x07 || sub == 0x87 }

end Sys2Proof.Machine
end

