-- ==== Sys2Proof/Machine/Events.lean ====
section
/-!
DEFINITION. Machine/Events.lean: the events of the event output port and their encoding on the wires
(45_orchestration.md R267-R269, 60_exceptions.md R318).
-/

namespace Sys2Proof.Machine

/-- The semantic tags (45_orchestration.md R269). -/
inductive Tag where
  | ftStart | ftLength | ftLength2 | ftStart2 | ftControl | baosMain | baosSub
  | startId | startIndex | count | errorCode | dpFilter
  | siId | siLength | siData | siVerMajor | siVerMinor | siAddrArea | siAddrLine | siAddrDevice | siFlag | siBaudrate
  | dpId | dpCommand | dpState | dpStValid | dpStUpdated | dpStReadreq | dpStTrans | dpLength | dpValue
  | ddValueType | ddConfig | ddCfgPrio | ddCfgComm | ddCfgRead | ddCfgWrite | ddCfgRinit | ddCfgTrans | ddCfgUpdresp
  | ddDpt
  | dsLength | dsText | pbValue | ftChecksum | ftEnd
deriving DecidableEq, Repr

/-- The 8-bit code of a tag (the table of R269). -/
def Tag.code : Tag → BitVec 8
  | .ftStart => 0x01
  | .ftLength => 0x02
  | .ftLength2 => 0x03
  | .ftStart2 => 0x04
  | .ftControl => 0x05
  | .baosMain => 0x06
  | .baosSub => 0x07
  | .startId => 0x08
  | .startIndex => 0x09
  | .count => 0x0A
  | .errorCode => 0x0B
  | .dpFilter => 0x0C
  | .siId => 0x10
  | .siLength => 0x11
  | .siData => 0x12
  | .siVerMajor => 0x13
  | .siVerMinor => 0x14
  | .siAddrArea => 0x15
  | .siAddrLine => 0x16
  | .siAddrDevice => 0x17
  | .siFlag => 0x18
  | .siBaudrate => 0x19
  | .dpId => 0x20
  | .dpCommand => 0x21
  | .dpState => 0x22
  | .dpStValid => 0x23
  | .dpStUpdated => 0x24
  | .dpStReadreq => 0x25
  | .dpStTrans => 0x26
  | .dpLength => 0x27
  | .dpValue => 0x28
  | .ddValueType => 0x30
  | .ddConfig => 0x31
  | .ddCfgPrio => 0x32
  | .ddCfgComm => 0x33
  | .ddCfgRead => 0x34
  | .ddCfgWrite => 0x35
  | .ddCfgRinit => 0x36
  | .ddCfgTrans => 0x37
  | .ddCfgUpdresp => 0x38
  | .ddDpt => 0x39
  | .dsLength => 0x40
  | .dsText => 0x41
  | .pbValue => 0x48
  | .ftChecksum => 0x50
  | .ftEnd => 0x51

/-- Diagnostic severities (60_exceptions.md R318). -/
inductive Severity where
  | warning | error
deriving DecidableEq, Repr

/-- The code of a severity, carried on EV_LEN (R318). -/
def Severity.code : Severity → BitVec 16
  | .warning => 1
  | .error => 2

/-- Diagnostic codes (60_exceptions.md R318). -/
inductive DiagCode where
  | frameIncomplete | checksumMismatch
deriving DecidableEq, Repr

/-- The number of a diagnostic code, carried on EV_TAG (R318). -/
def DiagCode.code : DiagCode → BitVec 8
  | .frameIncomplete => 1
  | .checksumMismatch => 2

/-- `emit_field(off, len, tag, val)` with an interpreted value (R15, R268): a FIELD event with EV_RAW = 0. -/
def fieldEvent (off len : Nat) (tag : Tag) (val : Word) : Wires :=
  { diag := false, off := BitVec.ofNat 16 off, len := BitVec.ofNat 16 len, tag := tag.code, raw := false, val := val }

/-- `emit_field(off, len, tag, RAW)` (R15, R268): a FIELD event with EV_RAW = 1 and EV_VAL = 0; the sink reads
`buf[off .. off+len-1]` itself. -/
def rawEvent (off len : Nat) (tag : Tag) : Wires :=
  { diag := false, off := BitVec.ofNat 16 off, len := BitVec.ofNat 16 len, tag := tag.code, raw := true, val := 0 }

/-- `emit_diag(sev, code, a, b)` (R15, R268): a DIAG event; EV_OFF = a, EV_LEN = severity, EV_TAG = code, EV_VAL = b. -/
def diagEvent (sev : Severity) (code : DiagCode) (a b : Word) : Wires :=
  { diag := true, off := a, len := sev.code, tag := code.code, raw := false, val := b }

end Sys2Proof.Machine
end

