-- ==== Sys2Proof/Machine/Flags.lean ====
section
/-!
DEFINITION. Machine/Flags.lean: STATUS, result register 0, by named bits (10_state.md R40, R41). The bits are the
block's flags: only the block's phases set them, the reserved bits 15:13 are never set, and within a transaction a bit
is only ever set, BUSY excepted.
-/

namespace Sys2Proof.Machine

/-- The named bits of STATUS (R40). -/
inductive StatusBit where
  | done | busy | recognized | short | complete | csumChecked | csumOk | trunc | unknownSub | subValid | countValid
  | errcodeValid | startIdValid
deriving DecidableEq, Repr

/-- The bit number of a STATUS bit (the table of R40). -/
def StatusBit.index : StatusBit → Nat
  | .done => 0
  | .busy => 1
  | .recognized => 2
  | .short => 3
  | .complete => 4
  | .csumChecked => 5
  | .csumOk => 6
  | .trunc => 7
  | .unknownSub => 8
  | .subValid => 9
  | .countValid => 10
  | .errcodeValid => 11
  | .startIdValid => 12

/-- The word with only that bit set. -/
def StatusBit.mask (f : StatusBit) : BitVec 16 := BitVec.ofNat 16 (2 ^ f.index)

/-- Set one bit, leaving the others. -/
def setFlag (w : BitVec 16) (f : StatusBit) : BitVec 16 := w ||| f.mask

/-- Clear one bit, leaving the others. Only BUSY is ever cleared outside `start` and reset (R41). -/
def clearFlag (w : BitVec 16) (f : StatusBit) : BitVec 16 := w &&& ~~~ f.mask

/-- Set one bit when a condition holds, and leave the word as it is otherwise. -/
def setFlagIf (c : Bool) (w : BitVec 16) (f : StatusBit) : BitVec 16 := if c then setFlag w f else w

/-- Read one bit. -/
def getFlag (w : BitVec 16) (f : StatusBit) : Bool := w.getLsbD f.index

/-- One STATUS bit of a state. -/
def State.flag (s : State) (f : StatusBit) : Bool := getFlag s.regs.status f

/-- STATUS at the entry of a transaction: BUSY <- 1, DONE <- 0, every other bit cleared (R44, R262). -/
def statusAtStart : BitVec 16 := setFlag 0 .busy

/-- STATUS at the entry of DONE: DONE <- 1, BUSY <- 0 (R272). -/
def statusAtDone (w : BitVec 16) : BitVec 16 := clearFlag (setFlag w .done) .busy

end Sys2Proof.Machine
end

