-- ==== Sys2Proof/Machine/Ops.lean ====
section
/-!
DEFINITION. Machine/Ops.lean: the named operations over the buffer, the registers, the event port and the conditions.
The block has no traps (60_exceptions.md R310, R311): `State.raise` below is its one shared way of recording a
condition, as R300 tables it.
-/

namespace Sys2Proof.Machine

/-! ### The buffer (20_memory.md) -/

/-- The byte stored at an address, if one has been stored. -/
def Memory.read : Memory → Nat → Option Byte
  | [], _ => none
  | (a', b) :: m, a => if a = a' then some b else Memory.read m a

/-- Store a byte, keeping the addresses strictly rising. -/
def Memory.write : Memory → Nat → Byte → Memory
  | [], a, b => [(a, b)]
  | (a', b') :: m, a, b =>
    if a < a' then (a, b) :: (a', b') :: m
    else if a = a' then (a, b) :: m
    else (a', b') :: Memory.write m a b

/-- Every address of the list is above `a`, and the addresses rise strictly. -/
def Memory.risingAbove : Nat → Memory → Bool
  | _, [] => true
  | a, (a', _) :: m => decide (a < a') && Memory.risingAbove a' m

/-- The canonical form: addresses strictly rising and inside the address space 0..65534 (R60). An unlisted address reads
as a free value, which no stored byte is known to equal, so no entry is redundant. -/
def Memory.wf : Memory → Bool
  | [] => true
  | (a, b) :: m => Memory.risingAbove a m && ((a, b) :: m).all (fun c => decide (c.1 < 65535))

/-- Store consecutive bytes from an address upward. -/
def Memory.writeAll : Memory → Nat → List Byte → Memory
  | m, _, [] => m
  | m, a, b :: rest => Memory.writeAll (Memory.write m a b) (a + 1) rest

/-- `fits(a, n)`, the truncation guard: `a + n <= LEN` on unbounded naturals (00_scope.md R13). -/
def State.fits (s : State) (a n : Nat) : Bool := decide (a + n ≤ s.regs.len.toNat)

/-- What the buffer's storage returns at an address: the stored byte; a free value where nothing backs the address
(R335, R43) or where the host has changed the running transaction's buffer (R334). -/
def State.byteAt (s : State) (a : Nat) : Byte :=
  if s.unstable then Config.openByte s.tick 0 a
  else (Memory.read s.buf a).getD (Config.openByte s.tick 0 a)

/-- The same for the second read of an address in one unit of work: where a read returns any byte, it need not return
what the first one did (R334, R335; assumption 2). -/
def State.byteAgain (s : State) (a : Nat) : Byte :=
  if s.unstable then Config.openByte s.tick 1 a
  else (Memory.read s.buf a).getD (Config.openByte s.tick 1 a)

/-- One read at the buffer read port (R60, R65). A read at an address >= LEN faults: R62 says that none is issued
(assumption 8). -/
def State.readByte (s : State) (a : Nat) : Except Fault Byte :=
  if s.fits a 1 then .ok (s.byteAt a) else .error (.readPastLen a)

/-- The second read of an address in one unit of work. -/
def State.readAgain (s : State) (a : Nat) : Except Fault Byte :=
  if s.fits a 1 then .ok (s.byteAgain a) else .error (.readPastLen a)

/-- `v <- v * 256 + buf[a + k]` for the remaining bytes (the loop of R62). -/
def State.memReadFrom (s : State) : Nat → Nat → Word → Except Fault Word
  | _, 0, v => .ok v
  | a, n + 1, v =>
    match s.readByte a with
    | .ok b => s.memReadFrom (a + 1) n (v * 256 + b.setWidth 16)
    | .error e => .error e

/-- `MemRead(a, n)`: n bytes read as a big-endian unsigned integer, n <= 2 (R12, R62, R63). -/
def State.memRead (s : State) (a n : Nat) : Except Fault Word := s.memReadFrom a n 0

/-- A guarded test of one byte: false where the byte is missing (41_locator.md R131, R135). -/
def State.guardedTest (s : State) (a : Nat) (p : Byte → Bool) : Bool := s.fits a 1 && p (s.byteAt a)

/-! ### Addresses (00_scope.md R16) -/

/-- `s`, the frame start (R16). -/
def State.frameStart (s : State) : Nat := s.regs.startOff.toNat

/-- `P = s + 5`, the payload start (R16). -/
def State.payloadStart (s : State) : Nat := s.frameStart + Config.payloadBase

/-- `T`, the trailer offset, from the register TOFF (R16, R150). -/
def State.trailerOffset (s : State) : Nat := s.regs.toff.toNat

/-! ### The event port (45_orchestration.md R267, R275) -/

/-- Load PEND with the oldest waiting event when PEND is empty (R267). -/
def State.present (s : State) : State :=
  match s.pend.valid, s.burst with
  | false, e :: rest => { s with pend := { valid := true, wires := e }, burst := rest }
  | _, _ => s

/-- `emit_field`/`emit_diag` of the events one read determines (R15, R267): the first loads PEND, the others follow it
in order. Nothing already waiting is lost or overtaken. -/
def State.emit (s : State) (es : List Wires) : State := State.present { s with burst := s.burst ++ es }

/-- The sink accepts the event in PEND: EV_VALID <- 0 (R267). The other wires keep their values (DEDUCED, assumption
15). -/
def State.accept (s : State) : State :=
  { s with pend := { s.pend with valid := false }, sink := s.sink ++ [s.pend.wires] }

/-! ### Position and registers -/

/-- The register PHASE (R36, R261). -/
def Pos.phase : Pos → Phase
  | .idle => .idle
  | .scanning => .scanning
  | .foundFrame _ => .foundFrame
  | .header _ => .headerDecoded
  | .payload _ => .payloadDecoded
  | .trailer _ => .trailerChecked
  | .done => .done

/-- The 3-bit encoding of PHASE (R261). -/
def Phase.code : Phase → BitVec 3
  | .idle => 0
  | .scanning => 1
  | .foundFrame => 2
  | .headerDecoded => 3
  | .payloadDecoded => 4
  | .trailerChecked => 5
  | .done => 6

/-- PHASE is neither IDLE nor DONE: a transaction is running (R40 bit 1, R262). -/
def Pos.busy : Pos → Bool
  | .idle => false
  | .done => false
  | _ => true

/-- Move to a position: `phase <- P` where it changes the phase (R15). -/
def State.goto (s : State) (p : Pos) : State := { s with pos := p }

/-- Write the registers. -/
def State.setRegs (s : State) (r : Regs) : State := { s with regs := r }

/-- Set one STATUS bit (R40, R41). -/
def State.setStatus (s : State) (f : StatusBit) : State :=
  { s with regs := { s.regs with status := setFlag s.regs.status f } }

/-! ### Conditions (60_exceptions.md R300): the one shared operation -/

/-- The five conditions, with the values their diagnostic carries (R300). -/
inductive Condition where
  | notRecognized
  | truncated
  | integrityWarning (expectedAt : Word)
  | checksumError (computed declared : Byte)
  | unknownSubService
deriving DecidableEq, Repr

/-- The STATUS bit a condition sets, where it sets one (R300): IntegrityWarning and ChecksumError are recorded by a bit
that stays 0 (COMPLETE, CSUM_OK), NotRecognized by RECOGNIZED staying 0. -/
def Condition.bit : Condition → Option StatusBit
  | .notRecognized => none
  | .truncated => some .trunc
  | .integrityWarning _ => none
  | .checksumError _ _ => none
  | .unknownSubService => some .unknownSub

/-- The diagnostic event of a condition, where it has one (R300, R303, R304, R318). -/
def Condition.diag : Condition → List Wires
  | .notRecognized => []
  | .truncated => []
  | .integrityWarning a => [diagEvent .warning .frameIncomplete a 0]
  | .checksumError c d => [diagEvent .error .checksumMismatch (c.setWidth 16) (d.setWidth 16)]
  | .unknownSubService => []

/-- `raise X` (R15, R300): write the condition's status bit and emit its diagnostic. It transfers no control, saves no
state and changes no mode (R310). -/
def State.raise (s : State) (c : Condition) : State :=
  let s' := match c.bit with
    | some f => s.setStatus f
    | none => s
  s'.emit c.diag

/-! ### Start, done, reset -/

/-- Enter DONE: PHASE <- DONE, STATUS.DONE <- 1, STATUS.BUSY <- 0 (R272). -/
def State.enterDone (s : State) : State :=
  { s with pos := .done, regs := { s.regs with status := statusAtDone s.regs.status } }

/-- An accepted `start` (R44, R262): clear every register of R43 but PHASE and PEND, sample LEN <- LEN_IN, BUSY <- 1,
DONE <- 0, PHASE <- SCANNING. From here on the buffer is the new transaction's. -/
def State.startTransaction (s : State) : State :=
  { s with regs := { Regs.reset with len := s.pins.lenIn, status := statusAtStart }, pos := .scanning,
           unstable := false }

/-- RST (70_reset_and_hazards.md R330, R331): every register at its reset value, PHASE = IDLE, PEND emptied without the
sink accepting it, nothing more to come of the transaction. The buffer and what the sink holds stay. -/
def State.resetBlock (s : State) : State :=
  { s with regs := Regs.reset, pos := .idle, pend := Pend.reset, burst := [], unstable := false }

/-! ### The host's side -/

/-- The host's store of this step, if any. A store that changes a byte below LEN while a transaction runs is the hazard
of R334: the transaction's reads return any byte. A transaction that begins while its change is still to come is marked
at its START already (`State.beginTransaction`), so that its earlier reads do too (assumption 2). -/
def State.hostStore (s : State) : State :=
  match s.pins.store with
  | none => s
  | some st =>
    { s with buf := Memory.write s.buf st.addr.val st.byte,
             unstable := s.unstable ||
               (s.pos.busy && decide (st.addr.val < s.regs.len.toNat) &&
                 Memory.read s.buf st.addr.val != some st.byte) }

/-- The end of a step: the host's next input levels, and the step's number. It touches nothing of the block. At the
end of the script the ports keep their levels, and the latency oracle lets go (R279: the latency is finite). -/
def State.elapse (s : State) : State :=
  match s.script with
  | [] => { s with tick := s.tick + 1, pins := { s.pins with wait := false } }
  | p :: rest => { s with tick := s.tick + 1, pins := p, script := rest }

/-- The outcome of a unit of work: a next state or the fault that stopped it. -/
def outcomeOf (r : Except Fault State) : Host.Outcome State Fault Refusal :=
  match r with
  | .ok s => .next s
  | .error e => .fault e

/-- Apply a function to the state of a `next` outcome. -/
def mapNext (f : State → State) (o : Host.Outcome State Fault Refusal) : Host.Outcome State Fault Refusal :=
  match o with
  | .next s => .next (f s)
  | .fault e => .fault e
  | .refused r => .refused r

end Sys2Proof.Machine
end

