-- ==== Sys2Proof/Machine/Operands.lean ====
section
/-!
DEFINITION. Machine/Operands.lean: every operand form of the spec. Operands are unsigned bytes, big-endian 16-bit
integers, or sub-fields by mask and shift (30_encoding.md R99). The record shapes (R90-R95) are tables, which take their bit
layouts and the types of server items from the configuration (Machine/Params.lean); the decoders of Machine/Body.lean
read them.
-/

namespace Sys2Proof.Machine

/-! ### Sub-fields by mask and shift -/

/-- A sub-field: some bits of its parent, under a tag of its own. -/
structure SubField where
  tag : Tag
  bits : BitRange
deriving DecidableEq, Repr

/-- The events of a layout's sub-fields: each repeats its parent's offset and length (R226-R231, R236, R250). -/
def subEvents (layout : List SubField) (off len : Nat) (v : Word) : List Wires :=
  layout.map (fun f => fieldEvent off len f.tag (bitsOf f.bits v))

/-- The sub-fields of the datapoint state byte, in the order of R231. -/
def stateFields (l : DpStateLayout) : List SubField :=
  [⟨.dpStValid, l.valid⟩, ⟨.dpStUpdated, l.updated⟩, ⟨.dpStReadreq, l.readReq⟩, ⟨.dpStTrans, l.trans⟩]

/-- The sub-fields of the config-flags byte, in the order of R236. -/
def configFields (l : CfgLayout) : List SubField :=
  [⟨.ddCfgPrio, l.prio⟩, ⟨.ddCfgComm, l.comm⟩, ⟨.ddCfgRead, l.read⟩, ⟨.ddCfgWrite, l.write⟩, ⟨.ddCfgRinit, l.rinit⟩,
   ⟨.ddCfgTrans, l.trans⟩, ⟨.ddCfgUpdresp, l.updresp⟩]

/-! ### Typed views of server item data -/

/-- The data width a view needs (R225: it is applied only when n equals it); RAW never applies a view. -/
def ViewType.width : ViewType → Option Nat
  | .raw => none
  | .version => some 1
  | .flag => some 1
  | .baud => some 1
  | .address => some 2

/-- The sub-fields a view emits (R226-R229; PRESUMED, assumption 17). -/
def ViewType.layout : ViewType → List SubField
  | .raw => []
  | .version => [⟨.siVerMajor, 7, 4⟩, ⟨.siVerMinor, 3, 0⟩]
  | .flag => [⟨.siFlag, 0, 0⟩]
  | .baud => [⟨.siBaudrate, 7, 0⟩]
  | .address => [⟨.siAddrArea, 15, 12⟩, ⟨.siAddrLine, 11, 8⟩, ⟨.siAddrDevice, 7, 0⟩]

/-- The view applied to an item of this id whose data has length n, if one is (R225). -/
def appliedView (table : List (Nat × ViewType)) (id n : Nat) : Option ViewType :=
  let v := viewOf table id
  if v.width = some n then some v else none

/-! ### Record shapes -/

/-- One field of a record's fixed leading part: its offset from the record's first byte, its width in bytes (1 or 2),
its tag, and the layout of its sub-fields. -/
structure LeadField where
  off : Nat
  width : Nat
  tag : Tag
  subs : List SubField
deriving DecidableEq, Repr

/-- A list kind's record shape (44_record_streams.md R206). -/
structure Shape where
  /-- H, the fixed leading part's size in bytes. -/
  size : Nat
  /-- The fields of the leading part, in increasing address (EMIT_PREFIX, R250). -/
  lead : List LeadField
  /-- N: offset and width of the length field, where there is a variable part. -/
  lenField : Option (Nat × Nat)
  /-- The variable part's tag, where there is one. -/
  varTag : Option Tag
  /-- The kind applies the typed views of R225. -/
  typed : Bool
deriving DecidableEq, Repr

/-- The six list kinds' shapes (R206, R220, R230, R232, R235, R240, R245; 30_encoding.md R90-R95); the other kinds have
no records. -/
def shapeOf (c : Params) : Kind → Option Shape
  | .none => none
  | .hdrReq => none
  | .hdrRes => none
  | .hdrFilter => none
  | .serverItems => some
    { size := 3, lead := [⟨0, 2, .siId, []⟩, ⟨2, 1, .siLength, []⟩],
      lenField := some (2, 1), varTag := some .siData, typed := true }
  | .dpValueCmd => some
    { size := 4, lead := [⟨0, 2, .dpId, []⟩, ⟨2, 1, .dpCommand, []⟩, ⟨3, 1, .dpLength, []⟩],
      lenField := some (3, 1), varTag := some .dpValue, typed := false }
  | .dpValueState => some
    { size := 4, lead := [⟨0, 2, .dpId, []⟩, ⟨2, 1, .dpState, stateFields c.dpState⟩, ⟨3, 1, .dpLength, []⟩],
      lenField := some (3, 1), varTag := some .dpValue, typed := false }
  | .dpDescriptor => some
    { size := 5,
      lead := [⟨0, 2, .dpId, []⟩, ⟨2, 1, .ddValueType, []⟩, ⟨3, 1, .ddConfig, configFields c.cfg⟩, ⟨4, 1, .ddDpt, []⟩],
      lenField := none, varTag := none, typed := false }
  | .descString => some
    { size := 2, lead := [⟨0, 2, .dsLength, []⟩],
      lenField := some (0, 2), varTag := some .dsText, typed := false }
  | .paramByte => some
    { size := 1, lead := [⟨0, 1, .pbValue, []⟩],
      lenField := none, varTag := none, typed := false }

/-- The events of one field of the leading part: the field, then its sub-fields (R250). -/
def leadEvents (f : LeadField) (c : Nat) (v : Word) : List Wires :=
  fieldEvent (c + f.off) f.width f.tag v :: subEvents f.subs (c + f.off) f.width v

/-- The event of the variable part, where the kind has one: RAW, and emitted for n = 0 too (R206, R213). -/
def variableEvents (sh : Shape) (c n : Nat) : List Wires :=
  match sh.varTag with
  | some t => [rawEvent (c + sh.size) n t]
  | none => []

/-- The events of a typed view of the value `v`, of `width` bytes at `off` (R226-R229). -/
def viewEvents (t : ViewType) (off width : Nat) (v : Word) : List Wires := subEvents t.layout off width v

/-! ### Header fields -/

/-- The tags of the six header fields, at s .. s+5 in this order (45_orchestration.md R266). -/
def headerTags : List Tag := [.ftStart, .ftLength, .ftLength2, .ftStart2, .ftControl, .baosMain]

/-- The tag of the list header's first field (R201, R170). -/
def listHeaderTag (idxhdr : Bool) : Tag := if idxhdr then .startIndex else .startId

end Sys2Proof.Machine
end

