-- ==== Sys2Proof/Machine/Body.lean ====
section
/-!
DEFINITION. Machine/Body.lean: the body decode of PAYLOAD_DECODED (44_record_streams.md), one parameterised datapath of
which each instruction's meaning selects a configuration. A UNIT is the work up to and including the next event (or the
next guard that emits none): the block does no further work until that event has been accepted (R267, R275), so a
meaning is called again, at the position the state holds, until the body has ended.
-/

namespace Sys2Proof.Machine

/-- The configuration an instruction selects: the mux's outputs for its code (43_dispatch.md R170). -/
abbrev BodyCfg := MuxOut

/-- The body has ended (R205): the next unit enters the trailer phase. -/
def State.endBody (s : State) : State := s.goto (.payload .leave)

/-- Truncated, which ends the body and nothing else (R205, R214). -/
def State.truncateBody (s : State) : State := (s.raise .truncated).endBody

/-- LIST_HEADER's first field: start-id or start-index at P+2 (R201). -/
def listHeaderUnit (m : BodyCfg) (s : State) : Except Fault State :=
  let a := s.payloadStart + 2
  if s.fits a 2 then
    match s.memRead a 2 with
    | .ok v =>
      .ok (((s.setRegs { s.regs with startId := v, status := setFlag s.regs.status .startIdValid }).goto
        (.payload .countField)).emit [fieldEvent a 2 (listHeaderTag m.idxhdr) v])
    | .error e => .error e
  else .ok s.truncateBody

/-- COUNT_FIELD: the count at P+4 (R202); absent, it is unreadable and there is no body. -/
def countUnit (s : State) : Except Fault State :=
  let a := s.payloadStart + 4
  if s.fits a 2 then
    match s.memRead a 2 with
    | .ok v =>
      .ok (((s.setRegs { s.regs with count := v, status := setFlag s.regs.status .countValid }).goto
        (.payload .select)).emit [fieldEvent a 2 .count v])
    | .error e => .error e
  else .ok s.truncateBody

/-- ERROR_CODE: the object-server result/error code byte at CUR (R203). -/
def errorCodeWork (s : State) : Except Fault State :=
  let a := s.regs.cur.toNat
  if s.fits a 1 then
    match s.readByte a with
    | .ok b =>
      .ok (((s.setRegs { s.regs with errcode := b, status := setFlag s.regs.status .errcodeValid }).endBody).emit
        [fieldEvent a 1 .errorCode (b.setWidth 16)])
    | .error e => .error e
  else .ok s.truncateBody

/-- FILTER: the filter byte at CUR, stored in no register (R217). -/
def filterWork (s : State) : Except Fault State :=
  let a := s.regs.cur.toNat
  if s.fits a 1 then
    match s.readByte a with
    | .ok b => .ok (s.endBody.emit [fieldEvent a 1 .dpFilter (b.setWidth 16)])
    | .error e => .error e
  else .ok s.truncateBody

/-- Body selection, right after the list header (R204), with R202's `CUR <- P+6; IDX <- 0`. -/
def selectUnit (m : BodyCfg) (s : State) : Except Fault State :=
  let s' := s.setRegs { s.regs with cur := BitVec.ofNat 16 (s.payloadStart + 6), idx := 0 }
  match m.kind with
  | .none => .ok s'.endBody
  | .hdrReq => .ok s'.endBody
  | .hdrRes => if s'.regs.count = 0 then errorCodeWork s' else .ok s'.endBody
  | .hdrFilter => filterWork s'
  | .serverItems | .dpValueCmd | .dpValueState | .dpDescriptor | .descString | .paramByte =>
    if m.zc && s'.regs.count == 0 then errorCodeWork s' else .ok (s'.goto (.payload .record))

/-- The loop test and the guard on the whole leading part (R206, R207). -/
def recordUnit (sh : Shape) (s : State) : State :=
  if s.regs.idx.toNat < s.regs.count.toNat then
    if s.fits s.regs.cur.toNat sh.size then s.goto (.payload (.lead 0)) else s.truncateBody
  else s.endBody

/-- One field of the leading part, with its sub-fields (EMIT_PREFIX of R206; R220, R230, R232, R235, R240, R245). -/
def leadFieldUnit (f : LeadField) (k : Nat) (s : State) : Except Fault State :=
  let c := s.regs.cur.toNat
  match s.memRead (c + f.off) f.width with
  | .ok v => .ok ((s.goto (.payload (.lead (k + 1)))).emit (leadEvents f c v))
  | .error e => .error e

/-- `n <- N[k](c)`: the variable part's length, 0 where the kind has none (R206). -/
def variableLength (sh : Shape) (s : State) : Except Fault Nat :=
  match sh.lenField with
  | some (off, width) =>
    match s.memRead (s.regs.cur.toNat + off) width with
    | .ok v => .ok v.toNat
    | .error e => .error e
  | none => .ok 0

/-- The variable part: its guard, and its RAW event where the kind has one (R206, R208, R213). -/
def variableUnit (sh : Shape) (s : State) : Except Fault State :=
  let c := s.regs.cur.toNat
  match variableLength sh s with
  | .ok n =>
    if s.fits (c + sh.size) n then .ok ((s.goto (.payload (.view n))).emit (variableEvents sh c n))
    else .ok s.truncateBody
  | .error e => .error e

/-- TYPED_VIEW: for server items, the view chosen by the id and checked against the length (R225-R229). It changes no
register. -/
def viewUnit (sh : Shape) (n : Nat) (s : State) : Except Fault State :=
  let c := s.regs.cur.toNat
  let s' := s.goto (.payload (.advance n))
  if sh.typed then
    match s.memRead c 2 with
    | .ok id =>
      match appliedView s.params.siType id.toNat n with
      | some t =>
        match s.memRead (c + sh.size) n with
        | .ok v => .ok (s'.emit (viewEvents t (c + sh.size) n v))
        | .error e => .error e
      | none => .ok s'
    | .error e => .error e
  else .ok s'

/-- The advance: CUR by the stride, IDX and REC_DONE by one (R209). -/
def advanceUnit (sh : Shape) (n : Nat) (s : State) : State :=
  (s.setRegs { s.regs with
    cur := BitVec.ofNat 16 (s.regs.cur.toNat + sh.size + n)
    idx := s.regs.idx + 1
    recDone := s.regs.recDone + 1 }).goto (.payload .record)

/-- One unit inside the record loop of a list kind (R206). -/
def recordLoopUnit (sh : Shape) (p : BodyPos) (s : State) : Except Fault State :=
  match p with
  | .record => .ok (recordUnit sh s)
  | .lead k =>
    match sh.lead[k]? with
    | some f => leadFieldUnit f k s
    | none => .ok (s.goto (.payload .varPart))
  | .varPart => variableUnit sh s
  | .view n => viewUnit sh n s
  | .advance n => .ok (advanceUnit sh n s)
  | .listHeader | .countField | .select | .leave => .ok s.endBody

/-- One unit of a body, at the position `p` (R204): the list header, the selection, the records, and at the end the
trailer phase (45_orchestration.md R270). -/
def bodyAt (m : BodyCfg) (p : BodyPos) (s : State) : Except Fault State :=
  match p with
  | .listHeader => listHeaderUnit m s
  | .countField => countUnit s
  | .select => selectUnit m s
  | .leave => .ok (s.goto (.trailer .declared))
  | .record | .lead _ | .varPart | .view _ | .advance _ =>
    match shapeOf s.params m.kind with
    | some sh => recordLoopUnit sh p s
    | none => .ok s.endBody

/-- One unit of the body that the configuration selects, at the position the state holds (DESIGN CHOICE, assumption 18);
the fault outside the payload phase is assumption 7. -/
def bodyUnit (m : BodyCfg) (s : State) : Host.Outcome State Fault Refusal :=
  match s.pos with
  | .payload p => outcomeOf (bodyAt m p s)
  | _ => .fault .outsidePayload

end Sys2Proof.Machine
end

