-- ==== Sys2Proof/Machine/Indications.lean ====
section
/-!
DEFINITION. Machine/Indications.lean: the meanings of the two indications 0xC1, 0xC2 (43_dispatch.md). Indications have
the count-zero convention: ZC = 1 (R89, R170). Each is one unit of the body its rule gives, at the position the state
holds (Machine/Body.lean).
-/

namespace Sys2Proof.Machine

/-- 0xC1 DatapointValue.Ind (R190): `KIND <- DP_VALUE_STATE; ZC <- 1`: the list header, then the error code or the
datapoint value records in state form. -/
def execDatapointValueInd (s : State) : Host.Outcome State Fault Refusal :=
  bodyUnit { kind := .dpValueState, zc := true, idxhdr := false } s

/-- 0xC2 ServerItem.Ind (R191): `KIND <- SERVER_ITEMS; ZC <- 1`: the list header, then the error code or the server item
records. -/
def execServerItemInd (s : State) : Host.Outcome State Fault Refusal :=
  bodyUnit { kind := .serverItems, zc := true, idxhdr := false } s

end Sys2Proof.Machine
end

