-- ==== Sys2Proof/Machine/Requests.lean ====
section
/-!
DEFINITION. Machine/Requests.lean: the meanings of the eight requests 0x01-0x08 (43_dispatch.md). Requests have no
count-zero convention: ZC = 0 (R89, R170). Each is one unit of the body its rule gives, at the position the state holds
(Machine/Body.lean).
-/

namespace Sys2Proof.Machine

/-- 0x01 GetServerItem.Req (R174): `KIND <- HDR_REQ; ZC <- 0; IDXHDR <- 0; HDR_REQ()`: the list header and nothing after
it. -/
def execGetServerItemReq (s : State) : Host.Outcome State Fault Refusal :=
  bodyUnit { kind := .hdrReq, zc := false, idxhdr := false } s

/-- 0x02 SetServerItem.Req (R176): `KIND <- SERVER_ITEMS; ZC <- 0; IDXHDR <- 0`: the list header, then the server item
records; count 0 decodes no record and no error byte. -/
def execSetServerItemReq (s : State) : Host.Outcome State Fault Refusal :=
  bodyUnit { kind := .serverItems, zc := false, idxhdr := false } s

/-- 0x03 GetDatapointDescription.Req (R178): `KIND <- HDR_REQ; ZC <- 0; HDR_REQ()`. -/
def execGetDatapointDescriptionReq (s : State) : Host.Outcome State Fault Refusal :=
  bodyUnit { kind := .hdrReq, zc := false, idxhdr := false } s

/-- 0x04 GetDescriptionString.Req (R180): `KIND <- HDR_REQ; ZC <- 0; HDR_REQ()`. -/
def execGetDescriptionStringReq (s : State) : Host.Outcome State Fault Refusal :=
  bodyUnit { kind := .hdrReq, zc := false, idxhdr := false } s

/-- 0x05 GetDatapointValue.Req (R182): `KIND <- HDR_FILTER; ZC <- 0; HDR_FILTER()`: the list header, then the filter
byte whatever the count is. -/
def execGetDatapointValueReq (s : State) : Host.Outcome State Fault Refusal :=
  bodyUnit { kind := .hdrFilter, zc := false, idxhdr := false } s

/-- 0x06 SetDatapointValue.Req (R184): `KIND <- DP_VALUE_CMD; ZC <- 0`: the list header, then the datapoint value
records in command form. -/
def execSetDatapointValueReq (s : State) : Host.Outcome State Fault Refusal :=
  bodyUnit { kind := .dpValueCmd, zc := false, idxhdr := false } s

/-- 0x07 GetParameterByte.Req (R186): `KIND <- HDR_REQ; ZC <- 0; IDXHDR <- 1; HDR_REQ()`: the header tag is START_INDEX.
-/
def execGetParameterByteReq (s : State) : Host.Outcome State Fault Refusal :=
  bodyUnit { kind := .hdrReq, zc := false, idxhdr := true } s

/-- 0x08 Request08.Req (R188): `KIND <- HDR_REQ; ZC <- 0; HDR_REQ()`. -/
def execRequest08Req (s : State) : Host.Outcome State Fault Refusal :=
  bodyUnit { kind := .hdrReq, zc := false, idxhdr := false } s

end Sys2Proof.Machine
end

