-- ==== Sys2Proof/Machine/Responses.lean ====
section
/-!
DEFINITION. Machine/Responses.lean: the meanings of the eight responses 0x81-0x88 (43_dispatch.md). Responses have the
count-zero convention: ZC = 1 (R89, R170). Each is one unit of the body its rule gives, at the position the state holds
(Machine/Body.lean).
-/

namespace Sys2Proof.Machine

/-- 0x81 GetServerItem.Res (R175): `KIND <- SERVER_ITEMS; ZC <- 1; IDXHDR <- 0`: the list header, then the error code or
the server item records. -/
def execGetServerItemRes (s : State) : Host.Outcome State Fault Refusal :=
  bodyUnit { kind := .serverItems, zc := true, idxhdr := false } s

/-- 0x82 SetServerItem.Res (R177): `KIND <- HDR_RES; ZC <- 1; HDR_RES()`: the list header, and the error code when count
= 0. -/
def execSetServerItemRes (s : State) : Host.Outcome State Fault Refusal :=
  bodyUnit { kind := .hdrRes, zc := true, idxhdr := false } s

/-- 0x83 GetDatapointDescription.Res (R179): `KIND <- DP_DESCRIPTOR; ZC <- 1`: the list header, then the error code or
the descriptor records. -/
def execGetDatapointDescriptionRes (s : State) : Host.Outcome State Fault Refusal :=
  bodyUnit { kind := .dpDescriptor, zc := true, idxhdr := false } s

/-- 0x84 GetDescriptionString.Res (R181): `KIND <- DESC_STRING; ZC <- 1`: the list header, then the error code or the
description strings. -/
def execGetDescriptionStringRes (s : State) : Host.Outcome State Fault Refusal :=
  bodyUnit { kind := .descString, zc := true, idxhdr := false } s

/-- 0x85 GetDatapointValue.Res (R183): `KIND <- DP_VALUE_STATE; ZC <- 1`: the list header, then the error code or the
datapoint value records in state form. -/
def execGetDatapointValueRes (s : State) : Host.Outcome State Fault Refusal :=
  bodyUnit { kind := .dpValueState, zc := true, idxhdr := false } s

/-- 0x86 SetDatapointValue.Res (R185): `KIND <- HDR_RES; ZC <- 1; HDR_RES()`. -/
def execSetDatapointValueRes (s : State) : Host.Outcome State Fault Refusal :=
  bodyUnit { kind := .hdrRes, zc := true, idxhdr := false } s

/-- 0x87 GetParameterByte.Res (R187): `KIND <- PARAM_BYTE; ZC <- 1; IDXHDR <- 1`: the list header (START_INDEX), then
the error code or the parameter bytes. -/
def execGetParameterByteRes (s : State) : Host.Outcome State Fault Refusal :=
  bodyUnit { kind := .paramByte, zc := true, idxhdr := true } s

/-- 0x88 Response88.Res (R189): `KIND <- HDR_RES; ZC <- 1; HDR_RES()`. -/
def execResponse88Res (s : State) : Host.Outcome State Fault Refusal :=
  bodyUnit { kind := .hdrRes, zc := true, idxhdr := false } s

end Sys2Proof.Machine
end

