-- ==== Sys2Proof/Machine/Dispatch.lean ====
section
/-!
DEFINITION. Machine/Dispatch.lean: one arm per sub-service, each one direct call of its meaning.
-/

namespace Sys2Proof.Machine

def exec (i : Instr) (s : State) : Host.Outcome State Fault Refusal :=
  match i with
  | .getServerItemReq => Sys2Proof.Machine.execGetServerItemReq s
  | .setServerItemReq => Sys2Proof.Machine.execSetServerItemReq s
  | .getDatapointDescriptionReq => Sys2Proof.Machine.execGetDatapointDescriptionReq s
  | .getDescriptionStringReq => Sys2Proof.Machine.execGetDescriptionStringReq s
  | .getDatapointValueReq => Sys2Proof.Machine.execGetDatapointValueReq s
  | .setDatapointValueReq => Sys2Proof.Machine.execSetDatapointValueReq s
  | .getParameterByteReq => Sys2Proof.Machine.execGetParameterByteReq s
  | .request08Req => Sys2Proof.Machine.execRequest08Req s
  | .getServerItemRes => Sys2Proof.Machine.execGetServerItemRes s
  | .setServerItemRes => Sys2Proof.Machine.execSetServerItemRes s
  | .getDatapointDescriptionRes => Sys2Proof.Machine.execGetDatapointDescriptionRes s
  | .getDescriptionStringRes => Sys2Proof.Machine.execGetDescriptionStringRes s
  | .getDatapointValueRes => Sys2Proof.Machine.execGetDatapointValueRes s
  | .setDatapointValueRes => Sys2Proof.Machine.execSetDatapointValueRes s
  | .getParameterByteRes => Sys2Proof.Machine.execGetParameterByteRes s
  | .response88Res => Sys2Proof.Machine.execResponse88Res s
  | .datapointValueInd => Sys2Proof.Machine.execDatapointValueInd s
  | .serverItemInd => Sys2Proof.Machine.execServerItemInd s

end Sys2Proof.Machine
end

