-- ==== Sys2Proof/Machine/Header.lean ====
section
/-!
DEFINITION. Machine/Header.lean: the work of HEADER_DECODED: the six header fields (45_orchestration.md R266), then the
sub-service byte and the dispatch (43_dispatch.md R192).
-/

namespace Sys2Proof.Machine

/-- Header field k, at address s + k (R266). -/
def headerFieldUnit (k : Nat) (tag : Tag) (s : State) : Except Fault State :=
  let a := s.frameStart + k
  match s.readByte a with
  | .ok b => .ok ((s.goto (.header (.field (k + 1)))).emit [fieldEvent a 1 tag (b.setWidth 16)])
  | .error e => .error e

/-- The sub-service read, guarded (R192, 90_conflicts.md C4): SUB <- b[P+1], SUB_VALID, BAOS_SUB; absent, it raises
Truncated and KIND stays NONE. -/
def subUnit (s : State) : Except Fault State :=
  let a := s.payloadStart + 1
  if s.fits a 1 then
    match s.readByte a with
    | .ok b =>
      .ok (((s.setRegs { s.regs with sub := b, status := setFlag s.regs.status .subValid }).goto
        (.header .dispatch)).emit [fieldEvent a 1 .baosSub (b.setWidth 16)])
    | .error e => .error e
  else .ok ((s.raise .truncated).goto (.header .leave))

/-- `(KIND, ZC, IDXHDR) <- DISPATCH(SUB)` and UnknownSubService where KIND is NONE (R192, R172). ZC and IDXHDR are
combinational and not stored (10_state.md R27). -/
def dispatchUnit (s : State) : State :=
  let m := dispatch s.regs.sub
  let s' := (s.setRegs { s.regs with kind := m.kind.code }).goto (.header .leave)
  if m.kind = .none then s'.raise .unknownSubService else s'

/-- One unit of HEADER_DECODED (R266, R192); PAYLOAD_DECODED follows. -/
def headerUnit (p : HeaderPos) (s : State) : Except Fault State :=
  match p with
  | .field k =>
    match headerTags[k]? with
    | some tag => headerFieldUnit k tag s
    | none => .ok (s.goto (.header .sub))
  | .sub => subUnit s
  | .dispatch => .ok (dispatchUnit s)
  | .leave => .ok (s.goto (.payload .listHeader))

end Sys2Proof.Machine
end

