-- ==== Sys2Proof/Machine/Integrity.lean ====
section
/-!
DEFINITION. Machine/Integrity.lean: the checksum engine (40_checksum.md) and the frame integrity checker
(42_integrity.md): VERIFY, the work of FOUND_FRAME, and the trailer decode, the work of TRAILER_CHECKED.
-/

namespace Sys2Proof.Machine

/-! ### The checksum engine -/

/-- `acc <- (acc + b[a]) mod 256` for n bytes from address a upward (40_checksum.md R120, R123). -/
def State.sumFrom (s : State) : Nat → Nat → Byte → Except Fault Byte
  | _, 0, acc => .ok acc
  | a, n + 1, acc =>
    match s.readByte a with
    | .ok b => s.sumFrom (a + 1) n (acc + b)
    | .error e => .error e

/-- `CHECKSUM(from, to)`: the sum of the bytes of [from, to) mod 256 (R120). -/
def State.checksum (s : State) (lo hi : Nat) : Except Fault Byte := s.sumFrom lo (hi - lo) 0

/-! ### VERIFY -/

/-- `complete <- fits(T+1, 1) and b[T+1] = FT_END` (42_integrity.md R151). -/
def State.endMarkerAt (s : State) (t : Nat) : Bool := s.guardedTest (t + 1) (· == Config.ftEnd)

/-- The work of FOUND_FRAME (45_orchestration.md R265): TOFF <- T (R150), COMPLETE (R151), and where the end marker is
not there the IntegrityWarning with T+1 (R152). COMPLETE is only ever set (DEDUCED, assumption 10). -/
def verifyWork (s : State) : State :=
  let t := s.frameStart + Config.trailerBase + s.regs.dlen.toNat
  let complete := s.endMarkerAt t
  let s1 := s.setRegs { s.regs with
    toff := BitVec.ofNat 16 t, status := setFlagIf complete s.regs.status .complete }
  let s2 := s1.goto (.foundFrame .leave)
  if complete then s2 else s2.raise (.integrityWarning (BitVec.ofNat 16 (t + 1)))

/-- One unit of FOUND_FRAME; HEADER_DECODED follows in every case (R153, R265). -/
def foundUnit (p : FoundPos) (s : State) : State :=
  match p with
  | .verify => verifyWork s
  | .leave => s.goto (.header (.field 0))

/-! ### The trailer -/

/-- The declared checksum byte: where `fits(T, 1)`, CSUM_DECL <- b[T] and FT_CHECKSUM (R154); else the sum is not
computed (R156). -/
def declaredUnit (s : State) : Except Fault State :=
  let t := s.trailerOffset
  if s.fits t 1 then
    match s.readByte t with
    | .ok b =>
      .ok (((s.setRegs { s.regs with csumDecl := b }).goto (.trailer .compare)).emit
        [fieldEvent t 1 .ftChecksum (b.setWidth 16)])
    | .error e => .error e
  else .ok (s.goto (.trailer .endMark))

/-- The computed checksum over [s+4, T), CSUM_CHECKED, and the compare: CSUM_OK or ChecksumError (R154, R155; 40_checksum.md
R122, R123: CSUM_ACC ends at the sum, which CSUM_CALC takes; one unit, assumption 12). -/
def compareUnit (s : State) : Except Fault State :=
  match s.checksum (s.frameStart + 4) s.trailerOffset with
  | .ok c =>
    let same := c == s.regs.csumDecl
    let s1 := s.setRegs { s.regs with
      csumAcc := c, csumCalc := c,
      status := setFlagIf same (setFlag s.regs.status .csumChecked) .csumOk }
    let s2 := s1.goto (.trailer .endMark)
    .ok (if same then s2 else s2.raise (.checksumError c s.regs.csumDecl))
  | .error e => .error e

/-- The end-marker field: emitted whenever the byte at T+1 is present, whatever its value (R154, R157). -/
def endMarkUnit (s : State) : Except Fault State :=
  let t := s.trailerOffset
  if s.fits (t + 1) 1 then
    match s.readByte (t + 1) with
    | .ok b => .ok ((s.goto (.trailer .leave)).emit [fieldEvent (t + 1) 1 .ftEnd (b.setWidth 16)])
    | .error e => .error e
  else .ok (s.goto (.trailer .leave))

/-- One unit of TRAILER_CHECKED; DONE follows whatever the checks said (45_orchestration.md R271, R272). -/
def trailerUnit (p : TrailerPos) (s : State) : Except Fault State :=
  match p with
  | .declared => declaredUnit s
  | .compare => compareUnit s
  | .endMark => endMarkUnit s
  | .leave => .ok s.enterDone

end Sys2Proof.Machine
end

