-- ==== Sys2Proof/Machine/Locator.lean ====
section
/-!
DEFINITION. Machine/Locator.lean: the frame locator (41_locator.md) and the MIN_LEN check (45_orchestration.md R263):
the work of the SCANNING phase, one candidate a unit, and LOCATE as one function of the buffer.
-/

namespace Sys2Proof.Machine

/-- Tests 1 and 2: both start markers of candidate i are present (R131). -/
def State.markersAt (s : State) (i : Nat) : Bool :=
  s.guardedTest i (· == Config.ftStart) && s.guardedTest (i + 3) (· == Config.ftStart)

/-- Test 3: the control byte of candidate i is one of CTRL_SET (R131, 30_encoding.md R83). -/
def State.controlAt (s : State) (i : Nat) : Bool := s.guardedTest (i + 4) (ctrlSet.contains ·)

/-- Test 4: the main-service byte of candidate i is BAOS_MAIN (R131, R134). -/
def State.mainAt (s : State) (i : Nat) : Bool := s.guardedTest (i + 5) (· == Config.baosMain)

/-- Candidate i passes all four tests (R131). -/
def State.passes (s : State) (i : Nat) : Bool := s.markersAt i && s.controlAt i && s.mainAt i

/-- The loop of LOCATE from candidate i on, `n` candidates left (R131). -/
def State.locateFrom (s : State) : Nat → Nat → Option Nat
  | _, 0 => none
  | i, n + 1 => if s.passes i then some i else s.locateFrom (i + 1) n

/-- `LOCATE()`: the smallest candidate of 0..4 that passes (41_locator.md R130-R132). -/
def State.locate (s : State) : Option Nat := s.locateFrom 0 Config.scanWindow

/-- FT_FOUND after candidate i has been tested: both markers match, and it is cleared again when the control byte fails
(R131, R133, 10_state.md R38). -/
def State.ftFoundAt (s : State) (i : Nat) : Bool := s.markersAt i && s.controlAt i

/-- Acceptance of candidate i (R137): START_OFF, DLEN <- b[i+1], CTRL <- b[i+4], RECOGNIZED <- 1, and FOUND_FRAME. The
control byte has been read once already, by test 3. -/
def State.acceptCandidate (s : State) (i : Nat) : Except Fault State :=
  match s.readByte (i + 1), s.readAgain (i + 4) with
  | .ok d, .ok c =>
    .ok { s with
      pos := .foundFrame .verify
      regs := { s.regs with
        startOff := BitVec.ofNat 3 i, dlen := d, ctrl := c, status := setFlag s.regs.status .recognized } }
  | .error e, _ => .error e
  | _, .error e => .error e

/-- One unit of SCANNING: the MIN_LEN check before any read (R263), then candidate SCAN_I (R131), then the next one; when
SCAN_I has reached 5 the result is None (R138). -/
def scanUnit (s : State) : Except Fault State :=
  if s.regs.len.toNat < Config.minLen then
    .ok ((s.setStatus .short).raise .notRecognized).enterDone
  else
    let i := s.regs.scanI.toNat
    if Config.scanWindow ≤ i then .ok (s.raise .notRecognized).enterDone
    else
      let s' := s.setRegs { s.regs with ftFound := s.ftFoundAt i }
      if s.passes i then s'.acceptCandidate i
      else .ok (s'.setRegs { s'.regs with scanI := BitVec.ofNat 3 (i + 1) })

end Sys2Proof.Machine
end

