-- ==== Sys2Proof/Machine/Sequencer.lean ====
section
/-!
DEFINITION. Machine/Sequencer.lean: the telegram-level orchestration (45_orchestration.md): which unit of work a phase does
next, the start and event handshakes, reset priority; the fetch of an instruction; and the state in which a given
sub-service byte is the next to run. Machine/Step.lean only calls these.
-/

namespace Sys2Proof.Machine

/-- The fetch: the instruction that the body phase runs is the one SUB selects (43_dispatch.md R170, R173). -/
def State.fetch (s : State) : Except DecodeError (Instr × List Byte) := decode [s.regs.sub]

/-- One unit of PAYLOAD_DECODED: the fetched instruction's meaning; where SUB selects none (unknown, or absent and hence
0) the phase does nothing and the trailer phase follows (R270, R172). It decodes SUB again instead of reading KIND
(DEDUCED, assumption 9). -/
def payloadUnit (s : State) : Host.Outcome State Fault Refusal :=
  match s.fetch with
  | .ok (i, _) => exec i s
  | .error _ => .next (s.goto (.trailer .declared))

/-- One unit of the running transaction's work, by phase (R261). IDLE and DONE have none. -/
def workUnit (s : State) : Host.Outcome State Fault Refusal :=
  match s.pos with
  | .idle => .next s
  | .scanning => outcomeOf (scanUnit s)
  | .foundFrame p => .next (foundUnit p s)
  | .header p => outcomeOf (headerUnit p s)
  | .payload _ => payloadUnit s
  | .trailer p => outcomeOf (trailerUnit p s)
  | .done => .next s

/-- What a running transaction does in one step, once the host's store has landed (see `cycle`). -/
def busyCycle (s : State) : Host.Outcome State Fault Refusal :=
  if s.pins.rst then .next s.resetBlock
  else if s.pend.valid then .next (if s.pins.evReady then s.accept else s)
  else if s.pins.wait then .next s
  else if s.burst.isEmpty then workUnit s
  else .next s.present

/-- Whether the host, by its script, changes a byte of the running transaction's buffer before the transaction ends. It
follows the transaction, reading the buffer as it is, for at most `n` steps (R334, assumption 2). -/
def State.changesAhead : Nat → State → Bool
  | 0, _ => false
  | n + 1, s =>
    let h := s.hostStore
    h.unstable ||
      match busyCycle h with
      | .next t => t.pos.busy && State.changesAhead n t.elapse
      | _ => false

/-- An accepted START (R262). Where the host is going to change the buffer before DONE, every read of the transaction
returns any byte, from its first read on (R334). The script and the levels after it are all the stores there are: a store
that is repeated changes nothing. -/
def State.beginTransaction (s : State) : State :=
  let t := s.startTransaction
  { t with unstable := t.elapse.changesAhead (t.script.length + 1) }

/-- What the block does in one step, once the host's store has landed:
RST before everything (70_reset_and_hazards.md R331); an event in PEND is accepted or stalls the block (R267, R275);
START is accepted in IDLE and DONE alone (R262, R273); a running transaction may take a step without progress (R279),
presents a waiting event, or does one unit of work (DESIGN CHOICE, assumptions 5 and 16). -/
def cycle (s : State) : Host.Outcome State Fault Refusal :=
  if s.pos.busy then busyCycle s
  else if s.pins.rst then .next s.resetBlock
  else if s.pend.valid then .next (if s.pins.evReady then s.accept else s)
  else .next (if s.pins.start then s.beginTransaction else s)

/-- The frame that carries a table word for the host's question: control RX-odd, the main service, then the word's bytes
from the sub-service on. -/
def fetchFrame (nbits w : Nat) : List Byte := frameBytes 0xF3 (Config.baosMain :: (tableBytes nbits w).take 250)

/-- The registers as HEADER_DECODED leaves them for a frame at address 0 with this sub-service byte. -/
def fetchRegs (sub : Byte) (frame : List Byte) : Regs :=
  { Regs.reset with
    len := BitVec.ofNat 16 frame.length
    status := setFlagIf ((dispatch sub).kind == .none)
      (setFlag (setFlag (setFlag statusAtStart .recognized) .complete) .subValid) .unknownSub
    dlen := BitVec.ofNat 8 (frame.length - 7)
    ctrl := 0xF3
    toff := BitVec.ofNat 16 (frame.length - 2)
    sub := sub
    kind := (dispatch sub).kind.code
    ftFound := true }

/-- The state whose very next step runs the sub-service of the table word: the frame in the buffer, the registers, and
the first unit of PAYLOAD_DECODED next; no reset, no store, no wait and no event in the way. -/
def State.loadWord (s : State) (nbits w : Nat) : State :=
  let frame := fetchFrame nbits w
  { s with
    buf := Memory.writeAll s.buf 0 frame
    regs := fetchRegs ((tableBytes nbits w).headD 0) frame
    pos := .payload .listHeader
    pend := Pend.reset
    burst := []
    unstable := false
    pins := { s.pins with rst := false, wait := false, store := none } }

end Sys2Proof.Machine
end

