-- ==== Sys2Proof/Machine/Step.lean ====
section
/-!
DEFINITION. Machine/Step.lean: one step of the machine, and the placing of an instruction where the next step runs it.
-/

namespace Sys2Proof.Machine

/-- One step: the host's store of this step lands in its buffer, the block acts on the input levels (`cycle`), and the
host's next levels take their place. -/
def step (s : State) : Host.Outcome State Fault Refusal := mapNext State.elapse (cycle s.hostStore)

/-- The state in which the table word is the instruction that the very next step runs (assumption 1). -/
def State.withFetchWord (s : State) (nbits w : Nat) : State := s.loadWord nbits w

end Sys2Proof.Machine
end

