-- ==== Sys2Proof/Machine/Ports.lean ====
section
/-!
DEFINITION. Machine/Ports.lean: the block's output ports (10_state.md R49) as functions of the state: BUSY, DONE and RDATA.
The PEND fields are the register itself. What a sink reads for a RAW event is here too (45_orchestration.md R268).
-/

namespace Sys2Proof.Machine

/-- The width of result register r in bits (the table of R21); STATUS has 13 named bits below its reserved 15:13. -/
def regWidth (r : BitVec 4) : Nat :=
  match r.toNat with
  | 0 => 13
  | 1 => 3
  | 2 => 8
  | 3 => 8
  | 4 => 16
  | 5 => 8
  | 6 => 4
  | 7 => 16
  | 8 => 16
  | 9 => 8
  | 10 => 8
  | 11 => 8
  | 12 => 16
  | _ => 0

/-- The value of result register r, zero-extended to 16 bits; 13-15 are reserved and read 0 (R21). -/
def Regs.result (g : Regs) (r : BitVec 4) : Word :=
  match r.toNat with
  | 0 => g.status
  | 1 => g.startOff.setWidth 16
  | 2 => g.dlen.setWidth 16
  | 3 => g.ctrl.setWidth 16
  | 4 => g.toff
  | 5 => g.sub.setWidth 16
  | 6 => g.kind.setWidth 16
  | 7 => g.startId
  | 8 => g.count
  | 9 => g.errcode.setWidth 16
  | 10 => g.csumDecl.setWidth 16
  | 11 => g.csumCalc.setWidth 16
  | 12 => g.recDone
  | _ => 0

/-- The output port BUSY, a copy of STATUS bit 1 (R49, R262). -/
def State.busyPort (s : State) : Bool := s.flag .busy

/-- The output port DONE, a copy of STATUS bit 0 (R49, R262, R312). -/
def State.donePort (s : State) : Bool := s.flag .done

/-- The output port RDATA for a register number (R42): the register's value; while BUSY = 1 any value of the register's
width (R336), its reserved bits reading 0. -/
def State.rdataOf (s : State) (r : BitVec 4) : Word :=
  if s.busyPort then Config.busyRead s.tick r &&& BitVec.ofNat 16 (2 ^ regWidth r - 1) else s.regs.result r

/-- The output port RDATA: the register that RREG selects in this step (R42, R49). -/
def State.rdata (s : State) : Word := s.rdataOf s.pins.rreg

/-- What the sink reads for a RAW event: `buf[off .. off+len-1]` (R15, R268, R338). -/
def State.rawBytes (s : State) (w : Wires) : List Byte :=
  (List.range w.len.toNat).map (fun k => s.byteAt (w.off.toNat + k))

end Sys2Proof.Machine
end

