-- ==== Sys2Proof/Machine/Transaction.lean ====
section
/-!
DEFINITION. Machine/Transaction.lean: DECODE, the complete decode of one transaction (45_orchestration.md R276), as ONE function
of the buffer's bytes and LEN that returns the event sequence and the registers at DONE. R260 names it as the
architectural outcome. The machine of Machine/Step.lean does not use it: it is the reference that the machine's runs are
compared with. It shares the tables of Machine/Operands.lean and the event encodings, and nothing else.
-/

namespace Sys2Proof.Machine

/-- What a decode has produced so far: the registers and the events in order. -/
structure Decoded where
  regs : Regs
  events : List Wires
deriving DecidableEq, Repr

/-- Append events (R15). -/
def Decoded.emit (d : Decoded) (es : List Wires) : Decoded := { d with events := d.events ++ es }

/-- Write the registers. -/
def Decoded.setRegs (d : Decoded) (r : Regs) : Decoded := { d with regs := r }

/-- Set a STATUS bit. -/
def Decoded.setStatus (d : Decoded) (f : StatusBit) : Decoded :=
  { d with regs := { d.regs with status := setFlag d.regs.status f } }

/-- `fits(a, n)` against a length (R13). -/
def fitsIn (len a n : Nat) : Bool := decide (a + n ≤ len)

/-- `{b[a], b[a+1]}`: a big-endian 16-bit field (20_memory.md R63). -/
def beWord (b : Nat → Byte) (a : Nat) : Word := (b a ++ b (a + 1) : BitVec (8 + 8))

/-- An integer field of 1 or 2 bytes (R63, R99). -/
def fieldValue (b : Nat → Byte) (a width : Nat) : Word :=
  if width = 1 then (b a).setWidth 16 else beWord b a

/-- The plain sum of n bytes from a, mod 256 (40_checksum.md R120). -/
def sumOf (b : Nat → Byte) : Nat → Nat → Byte
  | _, 0 => 0
  | a, n + 1 => b a + sumOf b (a + 1) n

/-- The markers and the control byte of candidate i (R131 tests 1-3). -/
def markedAt (b : Nat → Byte) (len i : Nat) : Bool :=
  fitsIn len i 1 && b i == Config.ftStart && (fitsIn len (i + 3) 1 && b (i + 3) == Config.ftStart) &&
    (fitsIn len (i + 4) 1 && ctrlSet.contains (b (i + 4)))

/-- Candidate i passes (R131). -/
def passesAt (b : Nat → Byte) (len i : Nat) : Bool :=
  markedAt b len i && (fitsIn len (i + 5) 1 && b (i + 5) == Config.baosMain)

/-- LOCATE's loop over the candidates i, i+1, ..., with the registers it writes (R131, R133). -/
def scanFrom (b : Nat → Byte) (len : Nat) : Nat → Nat → Regs → Option Nat × Regs
  | i, 0, g => (none, { g with scanI := BitVec.ofNat 3 i })
  | i, n + 1, g =>
    let g' := { g with scanI := BitVec.ofNat 3 i, ftFound := markedAt b len i }
    if passesAt b len i then (some i, g') else scanFrom b len (i + 1) n g'

/-- The six header fields from s on (R266). -/
def headerEvents (b : Nat → Byte) (s : Nat) : List Wires :=
  headerTags.mapIdx (fun k tag => fieldEvent (s + k) 1 tag ((b (s + k)).setWidth 16))

/-- The length n of a record's variable part (R206). -/
def lengthAt (b : Nat → Byte) (sh : Shape) (c : Nat) : Nat :=
  match sh.lenField with
  | some (off, width) => (fieldValue b (c + off) width).toNat
  | none => 0

/-- The events of a record's leading part (R206, R250). -/
def leadPart (b : Nat → Byte) (sh : Shape) (c : Nat) : List Wires :=
  sh.lead.flatMap (fun f => leadEvents f c (fieldValue b (c + f.off) f.width))

/-- The events of a record's typed view, where one applies (R225). -/
def viewPart (b : Nat → Byte) (table : List (Nat × ViewType)) (sh : Shape) (c n : Nat) : List Wires :=
  if sh.typed then
    match appliedView table (beWord b c).toNat n with
    | some t => viewEvents t (c + sh.size) n (fieldValue b (c + sh.size) n)
    | none => []
  else []

/-- RECORD_LOOP with `n` records still declared (R206-R209). -/
def recordLoop (b : Nat → Byte) (table : List (Nat × ViewType)) (len : Nat) (sh : Shape) : Nat → Decoded → Decoded
  | 0, d => d
  | n + 1, d =>
    let c := d.regs.cur.toNat
    if fitsIn len c sh.size then
      let d1 := d.emit (leadPart b sh c)
      let m := lengthAt b sh c
      if fitsIn len (c + sh.size) m then
        let d2 := (d1.emit (variableEvents sh c m)).emit (viewPart b table sh c m)
        recordLoop b table len sh n (d2.setRegs { d2.regs with
          cur := BitVec.ofNat 16 (c + sh.size + m)
          idx := d2.regs.idx + 1
          recDone := d2.regs.recDone + 1 })
      else d1.setStatus .trunc
    else d.setStatus .trunc

/-- ERROR_CODE (R203). -/
def errorCodePart (b : Nat → Byte) (len : Nat) (d : Decoded) : Decoded :=
  let a := d.regs.cur.toNat
  if fitsIn len a 1 then
    (d.setRegs { d.regs with errcode := b a, status := setFlag d.regs.status .errcodeValid }).emit
      [fieldEvent a 1 .errorCode ((b a).setWidth 16)]
  else d.setStatus .trunc

/-- FILTER (R217). -/
def filterPart (b : Nat → Byte) (len : Nat) (d : Decoded) : Decoded :=
  let a := d.regs.cur.toNat
  if fitsIn len a 1 then d.emit [fieldEvent a 1 .dpFilter ((b a).setWidth 16)] else d.setStatus .trunc

/-- The body after a readable list header (R204). -/
def selectPart (c : Params) (b : Nat → Byte) (len : Nat) (m : MuxOut) (d : Decoded) : Decoded :=
  match m.kind with
  | .none => d
  | .hdrReq => d
  | .hdrRes => if d.regs.count = 0 then errorCodePart b len d else d
  | .hdrFilter => filterPart b len d
  | k =>
    if m.zc && d.regs.count == 0 then errorCodePart b len d
    else match shapeOf c k with
      | some sh => recordLoop b c.siType len sh d.regs.count.toNat d
      | none => d

/-- BODY (R204): the list header (R201, R202), then the selection. -/
def bodyPart (conf : Params) (b : Nat → Byte) (len p : Nat) (m : MuxOut) (d : Decoded) : Decoded :=
  if fitsIn len (p + 2) 2 then
    let v := beWord b (p + 2)
    let d1 := (d.setRegs { d.regs with startId := v, status := setFlag d.regs.status .startIdValid }).emit
      [fieldEvent (p + 2) 2 (listHeaderTag m.idxhdr) v]
    if fitsIn len (p + 4) 2 then
      let c := beWord b (p + 4)
      let d2 := (d1.setRegs { d1.regs with count := c, status := setFlag d1.regs.status .countValid }).emit
        [fieldEvent (p + 4) 2 .count c]
      selectPart conf b len m (d2.setRegs { d2.regs with cur := BitVec.ofNat 16 (p + 6), idx := 0 })
    else d1.setStatus .trunc
  else d.setStatus .trunc

/-- The sub-service byte, the dispatch and the payload phase (R192, R270). -/
def telegramPart (conf : Params) (b : Nat → Byte) (len p : Nat) (d : Decoded) : Decoded :=
  if fitsIn len (p + 1) 1 then
    let sub := b (p + 1)
    let m := dispatch sub
    let d1 := (d.setRegs { d.regs with sub := sub, status := setFlag d.regs.status .subValid }).emit
      [fieldEvent (p + 1) 1 .baosSub (sub.setWidth 16)]
    let d2 := d1.setRegs { d1.regs with kind := m.kind.code }
    if m.kind = .none then d2.setStatus .unknownSub else bodyPart conf b len p m d2
  else d.setStatus .trunc

/-- The trailer phase (42_integrity.md R154-R157). -/
def trailerPart (b : Nat → Byte) (len s t : Nat) (d : Decoded) : Decoded :=
  let d1 :=
    if fitsIn len t 1 then
      let declared := b t
      let computed := sumOf b (s + 4) (t - (s + 4))
      let d0 := (d.setRegs { d.regs with csumDecl := declared }).emit
        [fieldEvent t 1 .ftChecksum (declared.setWidth 16)]
      let same := computed == declared
      let d0' := d0.setRegs { d0.regs with
        csumAcc := computed, csumCalc := computed,
        status := setFlagIf same (setFlag d0.regs.status .csumChecked) .csumOk }
      if same then d0'
      else d0'.emit [diagEvent .error .checksumMismatch (computed.setWidth 16) (declared.setWidth 16)]
    else d
  if fitsIn len (t + 1) 1 then d1.emit [fieldEvent (t + 1) 1 .ftEnd ((b (t + 1)).setWidth 16)] else d1

/-- FINISH (R272, R276). -/
def finishPart (d : Decoded) : Decoded := d.setRegs { d.regs with status := statusAtDone d.regs.status }

/-- `DECODE()` (R276): the events and the registers of the transaction on the bytes `b` with LEN = `lenIn`,
under a configuration. -/
def decodeTransaction (conf : Params) (b : Nat → Byte) (lenIn : Word) : Decoded :=
  let len := lenIn.toNat
  let d : Decoded := { regs := { Regs.reset with len := lenIn, status := statusAtStart }, events := [] }
  if len < Config.minLen then finishPart (d.setStatus .short)
  else
    match scanFrom b len 0 Config.scanWindow d.regs with
    | (none, g) => finishPart (d.setRegs g)
    | (some s, g) =>
      let t := s + Config.trailerBase + (b (s + 1)).toNat
      let complete := fitsIn len (t + 1) 1 && b (t + 1) == Config.ftEnd
      let d1 := d.setRegs { g with
        startOff := BitVec.ofNat 3 s, dlen := b (s + 1), ctrl := b (s + 4)
        status := setFlagIf complete (setFlag g.status .recognized) .complete
        toff := BitVec.ofNat 16 t }
      let d2 := if complete then d1
        else d1.emit [diagEvent .warning .frameIncomplete (BitVec.ofNat 16 (t + 1)) 0]
      let d3 := d2.emit (headerEvents b s)
      finishPart (trailerPart b len s t (telegramPart conf b len (s + Config.payloadBase) d3))

end Sys2Proof.Machine
end

