-- ==== Sys2Proof/Safety.lean ====
section
/-!
DEFINITION. Safety.lean: the terms in which claims speak of a safe run: what the sink has seen and will see, the host's
duties, the body of one instruction run to a position, and the invariant of the machine.
-/

namespace Sys2Proof.Machine

/-! ### The event port -/

/-- The event port is empty: the block may work (45_orchestration.md R267, R275). -/
abbrev State.free (s : State) : Prop := s.pend.valid = false ∧ s.burst = []

/-- The events that have been emitted and that the sink has not accepted yet, oldest first. -/
def State.waiting (s : State) : List Wires := (if s.pend.valid then [s.pend.wires] else []) ++ s.burst

/-- Every event emitted so far: those the sink holds, then those waiting (R267). -/
def State.trace (s : State) : List Wires := s.sink ++ s.waiting

/-- The state once the sink has accepted every waiting event and nothing else has happened. -/
def State.drain (s : State) : State :=
  { s with pend := { s.pend with valid := false }, burst := [], sink := s.trace }

/-- A FIELD event whose bytes lie inside the buffer (R62, R268). -/
def insideBuffer (len : Nat) (w : Wires) : Prop := w.diag = false → w.off.toNat + w.len.toNat ≤ len

/-! ### One instruction's body -/

/-- The body of instruction `i` from the state's position on: its meaning called `n` times, the sink accepting what each
call emits. How many calls a body takes is not architectural (R279): claims say that some number of them leads there. -/
def runBody (i : Instr) : Nat → State → Host.Outcome State Fault Refusal
  | 0, s => .next s
  | n + 1, s =>
    match exec i s with
    | .next t => runBody i n t.drain
    | .fault e => .fault e
    | .refused r => .refused r

/-- The body of `i` leads from `s` to `t`. -/
def bodyReaches (i : Instr) (s t : State) : Prop := ∃ n, runBody i n s = .next t

/-- The whole machine leads from `s` to `t` in `n` steps. -/
abbrev runsTo (n : Nat) (s t : State) : Prop := Host.Core.run Sys2Proof.core n s = .next t

/-- The state that offers these events on an empty event port: the first in PEND, the others behind it (R267). -/
def State.offering (s : State) (es : List Wires) : State :=
  match es with
  | [] => s
  | e :: rest => { s with pend := { valid := true, wires := e }, burst := rest }

/-- Nothing around the block's registers and event port differs: the buffer, the configuration, the host's inputs and
the step number. -/
structure SameSurroundings (s t : State) : Prop where
  buf : t.buf = s.buf
  params : t.params = s.params
  unstable : t.unstable = s.unstable
  pins : t.pins = s.pins
  script : t.script = s.script
  tick : t.tick = s.tick

/-- A piece of a body has run from `s` to `t`: the position, the registers and the events the sink has accepted are
these, and nothing else differs. -/
structure BodyRan (s t : State) (p : BodyPos) (g : Regs) (es : List Wires) : Prop where
  pos : t.pos = .payload p
  regs : t.regs = g
  port : t.free
  sink : t.sink = s.sink ++ es
  around : SameSurroundings s t

/-- The registers after a complete record of this stride (R209). -/
def Regs.advanced (g : Regs) (stride : Nat) : Regs :=
  { g with cur := BitVec.ofNat 16 (g.cur.toNat + stride), idx := g.idx + 1, recDone := g.recDone + 1 }

/-- The registers with one more STATUS bit set (R40). -/
def Regs.flagged (g : Regs) (f : StatusBit) : Regs := { g with status := setFlag g.status f }

/-! ### The groups of sub-services that rules of 44_record_streams.md name -/

/-- The five sub-services of R215. -/
def headerOnlyRequests : List Instr :=
  [.getServerItemReq, .getDatapointDescriptionReq, .getDescriptionStringReq, .getParameterByteReq, .request08Req]

/-- The three sub-services of R216. -/
def headerOnlyResponses : List Instr := [.setServerItemRes, .setDatapointValueRes, .response88Res]

/-- The two requests that carry records (R220, R232). -/
def recordRequests : List Instr := [.setServerItemReq, .setDatapointValueReq]

/-- The responses and indications that carry records (R175, R179, R181, R183, R187, R190, R191). -/
def recordAnswers : List Instr :=
  [.getServerItemRes, .getDatapointDescriptionRes, .getDescriptionStringRes, .getDatapointValueRes,
   .getParameterByteRes, .datapointValueInd, .serverItemInd]

/-- The sub-services that carry records, each with H, the size of a record's fixed prefix (the table of R206). -/
def prefixSizes : List (Instr × Nat) :=
  [(.setServerItemReq, 3), (.getServerItemRes, 3), (.serverItemInd, 3), (.setDatapointValueReq, 4),
   (.getDatapointValueRes, 4), (.datapointValueInd, 4), (.getDatapointDescriptionRes, 5),
   (.getDescriptionStringRes, 2), (.getParameterByteRes, 1)]

/-! ### The host's duties (70_reset_and_hazards.md) -/

/-- The host neither resets the block nor stores to its buffer in this step. -/
abbrev Pins.quiet (p : Pins) : Prop := p.rst = false ∧ p.store = none

/-- No input stands in the way of the block's work in this step. -/
abbrev State.clear (s : State) : Prop := s.pins.quiet ∧ s.pins.wait = false

/-- Every buffer address below `len` is backed by a stored byte, and the transaction's buffer is unchanged (R334,
R335). -/
abbrev State.backed (s : State) (len : Nat) : Prop :=
  s.unstable = false ∧ ∀ a, a < len → (Memory.read s.buf a).isSome = true

/-- The sink's schedule settles: from the last scheduled input on, the sink accepts every event; START and RST stay low
throughout (R278, R337). Stores and waits are not excluded (R334, R279). -/
abbrev State.settles (s : State) : Prop :=
  (∀ p ∈ s.pins :: s.script, p.rst = false ∧ p.start = false) ∧
  ((s.script.getLast?).getD s.pins).evReady = true

/-! ### The invariant -/

/-- What holds once the locator has accepted a candidate (41_locator.md R137; 10_state.md R22). -/
structure Located (s : State) : Prop where
  recognized : s.flag .recognized = true
  offset : s.frameStart ≤ 4
  present : s.frameStart + 6 ≤ s.regs.len.toNat
  long : Config.minLen ≤ s.regs.len.toNat

/-- Where the host leaves the transaction's buffer alone and the storage backs the byte, CTRL holds the byte at s + 4
and it is one of the four control codes (R24, R137). Elsewhere R334 and R335 let CTRL be any byte (assumption 2). -/
def ControlKept (s : State) : Prop :=
  s.unstable = false →
    ∀ b, Memory.read s.buf (s.frameStart + 4) = some b → s.regs.ctrl = b ∧ ctrlSet.contains b = true

/-- T = s + 5 + DLEN stands in TOFF (42_integrity.md R150). -/
def TrailerSet (s : State) : Prop := s.trailerOffset = s.frameStart + Config.trailerBase + s.regs.dlen.toNat

/-- No record has been decoded yet. -/
def NoRecord (s : State) : Prop := s.regs.idx = 0 ∧ s.regs.recDone = 0

/-- The checksum has not been compared yet. -/
def NotCompared (s : State) : Prop := s.flag .csumChecked = false

/-- The record shape that SUB selects, where it selects a list kind. -/
def State.shape (s : State) : Option Shape :=
  match decodeSub s.regs.sub with
  | .ok i => shapeOf s.params (kindTable i)
  | .error _ => none

/-- `extra` bytes beyond CUR and the leading part of the record at CUR lie inside the buffer (R207, R208). -/
def RecordFits (s : State) (extra : Nat) : Prop :=
  ∀ sh, s.shape = some sh → s.regs.cur.toNat + sh.size + extra ≤ s.regs.len.toNat

/-- What holds at a position of the body. -/
def BodyPlaced (s : State) : BodyPos → Prop
  | .listHeader => NoRecord s
  | .countField => NoRecord s
  | .select => NoRecord s ∧ s.payloadStart + 6 ≤ s.regs.len.toNat
  | .record => True
  | .lead _ => s.regs.idx.toNat < s.regs.count.toNat ∧ RecordFits s 0
  | .varPart => s.regs.idx.toNat < s.regs.count.toNat ∧ RecordFits s 0
  | .view n => s.regs.idx.toNat < s.regs.count.toNat ∧ RecordFits s n
  | .advance n => s.regs.idx.toNat < s.regs.count.toNat ∧ RecordFits s n
  | .leave => True

/-- What holds at a position of the trailer phase. -/
def TrailerPlaced (s : State) : TrailerPos → Prop
  | .declared => NotCompared s
  | .compare => NotCompared s ∧ s.trailerOffset < s.regs.len.toNat
  | .endMark => True
  | .leave => True

/-- What holds at each position. -/
def Placed (s : State) : Prop :=
  match s.pos with
  | .idle => True
  | .scanning => s.flag .recognized = false ∧ s.flag .short = false ∧ NoRecord s ∧ NotCompared s
  | .foundFrame .verify => Located s ∧ ControlKept s ∧ NoRecord s ∧ NotCompared s
  | .foundFrame .leave => Located s ∧ ControlKept s ∧ NoRecord s ∧ NotCompared s ∧ TrailerSet s
  | .header _ => Located s ∧ ControlKept s ∧ NoRecord s ∧ NotCompared s ∧ TrailerSet s
  | .payload p => Located s ∧ ControlKept s ∧ TrailerSet s ∧ NotCompared s ∧ BodyPlaced s p
  | .trailer p => Located s ∧ ControlKept s ∧ TrailerSet s ∧ TrailerPlaced s p
  | .done => s.flag .recognized = true → Located s ∧ TrailerSet s

/-- The invariant of the machine: it holds right after reset and every step keeps it. -/
structure Inv (s : State) : Prop where
  /-- The buffer is in its canonical form. -/
  buffer : Memory.wf s.buf = true
  /-- The reserved STATUS bits 15:13 read 0 (R40). -/
  reserved : s.regs.status &&& 0xE000 = 0
  /-- BUSY is set exactly while a transaction runs (R40, R262). -/
  busyBit : s.flag .busy = s.pos.busy
  /-- DONE is set exactly in the phase DONE (R40, R272). -/
  doneBit : s.flag .done = decide (s.pos = .done)
  /-- SHORT and RECOGNIZED exclude each other (R306). -/
  shortBit : s.flag .short = true → s.flag .recognized = false
  /-- CSUM_OK says that the checksum was compared and matched (R40). -/
  sumBit : s.flag .csumOk = (s.flag .csumChecked && s.regs.csumCalc == s.regs.csumDecl)
  /-- SCAN_I is 0..5 (R37). -/
  scan : s.regs.scanI.toNat ≤ 5
  /-- KIND is one of the codes 0..9 (R27). -/
  kind : s.regs.kind.toNat ≤ 9
  /-- KIND is the mux's output for SUB, except between the read of SUB and the dispatch: SUB and KIND are both 0
  before it, and an absent SUB leaves both at 0 (R27, R173, R192). -/
  muxed : s.pos ≠ .header .dispatch → s.regs.kind = (dispatch s.regs.sub).kind.code
  /-- No event waits in IDLE and DONE (R272). -/
  quiet : s.pos.busy = false → s.free
  /-- REC_DONE counts with IDX (R33, R209). -/
  counted : s.regs.recDone = s.regs.idx
  /-- IDX is 0..COUNT (R35), so REC_DONE never exceeds COUNT (R33). -/
  bounded : s.regs.idx.toNat ≤ s.regs.count.toNat
  /-- CUR <= LEN (R34). -/
  cursor : s.regs.cur.toNat ≤ s.regs.len.toNat
  /-- Every waiting FIELD event lies inside the buffer (R62, R268). -/
  events : ∀ w ∈ s.waiting, insideBuffer s.regs.len.toNat w
  /-- What holds at the position the machine is at. -/
  placed : Placed s

/-- A register that no rule has written in this transaction holds 0 while its VALID bit is 0 (R45, R27, R31, R32).
CSUM_DECL is written one unit before CSUM_CHECKED is set (R154). -/
structure AbsentReadsZero (s : State) : Prop where
  sub : s.flag .subValid = false → s.regs.sub = 0
  startId : s.flag .startIdValid = false → s.regs.startId = 0
  count : s.flag .countValid = false → s.regs.count = 0
  errcode : s.flag .errcodeValid = false → s.regs.errcode = 0
  csumCalc : s.flag .csumChecked = false → s.regs.csumCalc = 0
  csumDecl : s.flag .csumChecked = false → s.pos ≠ .trailer .compare → s.regs.csumDecl = 0
  kind : s.flag .subValid = false → s.regs.kind = 0
  frame : s.flag .recognized = false →
    s.regs.startOff = 0 ∧ s.regs.dlen = 0 ∧ s.regs.ctrl = 0 ∧ s.regs.toff = 0

/-- The transitions of the register PHASE that the table of R261 allows, staying in a phase included. -/
def phaseStep : Phase → List Phase
  | .idle => [.idle, .scanning]
  | .scanning => [.scanning, .foundFrame, .done]
  | .foundFrame => [.foundFrame, .headerDecoded]
  | .headerDecoded => [.headerDecoded, .payloadDecoded]
  | .payloadDecoded => [.payloadDecoded, .trailerChecked]
  | .trailerChecked => [.trailerChecked, .done]
  | .done => [.done, .scanning]

end Sys2Proof.Machine
end

