-- ==== Sys2Proof/Certificates/Slice0/Obligations.lean ====
section
/-!
DEFINITION. Certificates/Slice0/Obligations.lean: the statements for the provers. Each one's docstring names the rule of spec/
it formalises, or says that it is the model's own choice and names the log entry. In the statements about one unit of work
(a call of `workUnit` or of `exec`), the registers, events and phases are the rules'; the extent of a unit and the position
inside a phase are the model's own (assumptions 4 and 5), which R279 leaves open.
-/

section Statements

open Sys2Proof Sys2Proof.Machine

/-! ### Encoding and the mux -/

/-- R96, R100: the code byte of every sub-service decodes to it, and the bytes behind it are its operands; a byte that
decodes is the code of what it decodes to; every other byte, and no byte at all, is rejected by name. -/
def Obligations.DecodeAgreesWithEncode : Prop :=
  (∀ (i : Instr) (rest : List Byte), decode (encode i ++ rest) = .ok (i, rest)) ∧
  (∀ (b : Byte) (i : Instr), decodeSub b = .ok i → b = i.code) ∧
  (∀ b : Byte, (∀ i : Instr, i.code ≠ b) → decodeSub b = .error (.unknownSub b)) ∧
  decode [] = .error .absent

/-- R96: some words of the opcode map, written out. -/
def Obligations.OpcodeMapWords : Prop :=
  decodeTableWord 8 0x01 = some .getServerItemReq ∧ decodeTableWord 8 0x05 = some .getDatapointValueReq ∧
  decodeTableWord 8 0x06 = some .setDatapointValueReq ∧ decodeTableWord 8 0x81 = some .getServerItemRes ∧
  decodeTableWord 8 0x84 = some .getDescriptionStringRes ∧ decodeTableWord 8 0x87 = some .getParameterByteRes ∧
  decodeTableWord 8 0xC1 = some .datapointValueInd ∧ decodeTableWord 8 0xC2 = some .serverItemInd ∧
  decodeTableWord 8 0x09 = none ∧ decodeTableWord 8 0x80 = none

/-- R170, R171: the three outputs of the mux for every one of the 256 values of SUB, and the codes of the kinds. -/
def Obligations.MuxOutputs : Prop :=
  (∀ sub : Byte, dispatch sub =
    { kind :=
        if sub ∈ [0x01, 0x03, 0x04, 0x07, 0x08] then .hdrReq
        else if sub ∈ [0x82, 0x86, 0x88] then .hdrRes
        else if sub ∈ [0x05] then .hdrFilter
        else if sub ∈ [0x02, 0x81, 0xC2] then .serverItems
        else if sub ∈ [0x06] then .dpValueCmd
        else if sub ∈ [0x85, 0xC1] then .dpValueState
        else if sub ∈ [0x83] then .dpDescriptor
        else if sub ∈ [0x84] then .descString
        else if sub ∈ [0x87] then .paramByte
        else .none
      zc := decide (sub ∈ [0x81, 0x82, 0x83, 0x84, 0x85, 0x86, 0x87, 0x88, 0xC1, 0xC2])
      idxhdr := decide (sub ∈ [0x07, 0x87]) }) ∧
  [Kind.none, .hdrReq, .hdrRes, .hdrFilter, .serverItems, .dpValueCmd, .dpValueState, .dpDescriptor, .descString,
    .paramByte].map Kind.code = [0, 1, 2, 3, 4, 5, 6, 7, 8, 9] ∧
  ∀ k : Kind, k.code.toNat ≤ 9

/-- R269: the code of every semantic tag. -/
def Obligations.TagCodes : Prop :=
  [Tag.ftStart, .ftLength, .ftLength2, .ftStart2, .ftControl, .baosMain, .baosSub, .startId, .startIndex, .count,
    .errorCode, .dpFilter].map Tag.code =
    [0x01, 0x02, 0x03, 0x04, 0x05, 0x06, 0x07, 0x08, 0x09, 0x0A, 0x0B, 0x0C] ∧
  [Tag.siId, .siLength, .siData, .siVerMajor, .siVerMinor, .siAddrArea, .siAddrLine, .siAddrDevice, .siFlag,
    .siBaudrate].map Tag.code = [0x10, 0x11, 0x12, 0x13, 0x14, 0x15, 0x16, 0x17, 0x18, 0x19] ∧
  [Tag.dpId, .dpCommand, .dpState, .dpStValid, .dpStUpdated, .dpStReadreq, .dpStTrans, .dpLength, .dpValue].map
    Tag.code = [0x20, 0x21, 0x22, 0x23, 0x24, 0x25, 0x26, 0x27, 0x28] ∧
  [Tag.ddValueType, .ddConfig, .ddCfgPrio, .ddCfgComm, .ddCfgRead, .ddCfgWrite, .ddCfgRinit, .ddCfgTrans,
    .ddCfgUpdresp, .ddDpt].map Tag.code =
    [0x30, 0x31, 0x32, 0x33, 0x34, 0x35, 0x36, 0x37, 0x38, 0x39] ∧
  [Tag.dsLength, .dsText, .pbValue, .ftChecksum, .ftEnd].map Tag.code = [0x40, 0x41, 0x48, 0x50, 0x51]

/-- R103, R125, which the spec marks as its own inferences: a well-formed frame of at least 10 bytes is decoded back:
its place, length, control code and sub-service stand in the registers, its end marker and checksum check, its header
fields come first, and no diagnostic is emitted. -/
def Obligations.FrameRoundTrip : Prop :=
  ∀ (conf : Params) (f : Frame) (b : Nat → Byte),
    f.wellFormed = true → 10 ≤ f.totalLength →
    (∀ k, k < f.bytes.length → f.bytes[k]? = some (b k)) →
    let d := decodeTransaction conf b (BitVec.ofNat 16 f.totalLength)
    getFlag d.regs.status .recognized = true ∧ getFlag d.regs.status .complete = true ∧
    getFlag d.regs.status .csumChecked = true ∧ getFlag d.regs.status .csumOk = true ∧
    getFlag d.regs.status .subValid = true ∧ getFlag d.regs.status .unknownSub = false ∧
    getFlag d.regs.status .short = false ∧
    d.regs.startOff.toNat = f.junk.length ∧ d.regs.dlen.toNat = f.payloadLength ∧
    d.regs.ctrl = f.control.byte ∧ d.regs.sub = f.sub.code ∧
    headerEvents b f.junk.length <+: d.events ∧ ∀ w ∈ d.events, w.diag = false

/-! ### The locator and the SCANNING phase -/

/-- R132, R133, R135, R138: LOCATE answers the smallest candidate 0..4 that passes, and nothing exactly when none
passes, as in any buffer of at most 5 bytes; and its answer depends only on LEN and the bytes below both LEN and 10.
The last two are inferences that the spec marks as its own (R135, R133). -/
def Obligations.LocateContract : Prop :=
  (∀ (s : State) (i : Nat), s.locate = some i ↔ i < 5 ∧ s.passes i = true ∧ ∀ j, j < i → s.passes j = false) ∧
  (∀ s : State, s.locate = none ↔ ∀ j, j < 5 → s.passes j = false) ∧
  (∀ s : State, s.regs.len.toNat ≤ 5 → s.locate = none) ∧
  ∀ s t : State, t.regs.len = s.regs.len →
    (∀ a, a < s.regs.len.toNat → a < 10 → t.byteAt a = s.byteAt a) → t.locate = s.locate

/-- R139, whose conclusion the spec marks as its own inference: of two candidates of the window that both pass, one is
0 and the other 3, or one is 1 and the other 4; and both pairs do occur. -/
def Obligations.OverlapsThreeApart : Prop :=
  (∀ (s : State) (i j : Nat), i < j → j < 5 → s.passes i = true → s.passes j = true →
    (i = 0 ∧ j = 3) ∨ (i = 1 ∧ j = 4)) ∧
  (∃ s : State, s.passes 0 = true ∧ s.passes 3 = true) ∧
  (∃ s : State, s.passes 1 = true ∧ s.passes 4 = true)

/-- R138, R263, R264, R306: SCANNING without a frame: with LEN < 10 its first unit sets SHORT, and with all five
candidates exhausted it sets nothing; either way DONE is entered with no event, RECOGNIZED as it is, and nothing else
changed. -/
def Obligations.ScanEndsUnrecognized : Prop :=
  (∀ s : State, s.pos = .scanning → s.free → s.regs.len.toNat < 10 →
    workUnit s = .next { s with
      pos := .done
      regs := { s.regs with status := clearFlag (setFlag (setFlag s.regs.status .short) .done) .busy } }) ∧
  ∀ s : State, s.pos = .scanning → s.free → 10 ≤ s.regs.len.toNat → 5 ≤ s.regs.scanI.toNat →
    workUnit s = .next { s with
      pos := .done, regs := { s.regs with status := clearFlag (setFlag s.regs.status .done) .busy } }

/-- R137: a candidate whose four bytes pass is accepted: START_OFF, DLEN, CTRL and RECOGNIZED are written and
FOUND_FRAME is entered; all three bytes read lie inside the buffer. The control byte is read a second time here: in a
buffer that the host leaves alone and that backs it, that is the byte just tested; elsewhere it is any byte (R334, R335;
assumption 2). -/
def Obligations.ScanAccepts : Prop :=
  ∀ (s : State) (i : Nat), s.pos = .scanning → 10 ≤ s.regs.len.toNat → s.regs.scanI.toNat = i → i < 5 →
    s.byteAt i = 0x68 → s.byteAt (i + 3) = 0x68 → s.byteAt (i + 4) ∈ [0x73, 0x53, 0xF3, 0xD3] →
    s.byteAt (i + 5) = 0xF0 →
    workUnit s = .next { s with
      pos := .foundFrame .verify
      regs := { s.regs with
        startOff := BitVec.ofNat 3 i, dlen := s.byteAt (i + 1), ctrl := s.byteAgain (i + 4), ftFound := true
        status := setFlag s.regs.status .recognized } } ∧
    i + 5 < s.regs.len.toNat ∧
    (s.unstable = false → (Memory.read s.buf (i + 4)).isSome = true → s.byteAgain (i + 4) = s.byteAt (i + 4))

/-- R131, R133, R134: a candidate that fails one of the four tests is left for the next one; only SCAN_I and FT_FOUND
change, and FT_FOUND says whether its first three tests passed. -/
def Obligations.ScanRejects : Prop :=
  ∀ (s : State) (i : Nat), s.pos = .scanning → 10 ≤ s.regs.len.toNat → s.regs.scanI.toNat = i → i < 5 →
    ¬ (s.byteAt i = 0x68 ∧ s.byteAt (i + 3) = 0x68 ∧ s.byteAt (i + 4) ∈ [0x73, 0x53, 0xF3, 0xD3] ∧
      s.byteAt (i + 5) = 0xF0) →
    workUnit s = .next { s with
      regs := { s.regs with
        scanI := BitVec.ofNat 3 (i + 1)
        ftFound := decide (s.byteAt i = 0x68 ∧ s.byteAt (i + 3) = 0x68 ∧
          s.byteAt (i + 4) ∈ [0x73, 0x53, 0xF3, 0xD3]) } }

/-! ### Checksum, integrity, trailer -/

/-- R120: CHECKSUM answers the plain sum of the bytes of its range, mod 256, for every range inside the buffer; 0 for
the empty range; 0x68 for F3 F0 85. -/
def Obligations.ChecksumIsModularSum : Prop :=
  (∀ (s : State) (lo hi : Nat), lo ≤ hi → hi ≤ s.regs.len.toNat →
    ∃ c, s.checksum lo hi = .ok c ∧
      c.toNat = ((List.range (hi - lo)).map (fun k => (s.byteAt (lo + k)).toNat)).sum % 256) ∧
  (∀ (s : State) (a : Nat), s.checksum a a = .ok 0) ∧
  (∀ (s : State) (a : Nat), a + 3 ≤ s.regs.len.toNat → s.byteAt a = 0xF3 → s.byteAt (a + 1) = 0xF0 →
    s.byteAt (a + 2) = 0x85 → s.checksum a (a + 3) = .ok 0x68)

/-- R150, R151, R152, R153: FOUND_FRAME writes TOFF = s + 5 + DLEN, sets COMPLETE when the end marker stands at T+1
inside the buffer, and otherwise offers the FRAME_INCOMPLETE diagnostic with T+1; HEADER_DECODED follows either way.
That COMPLETE is left as it is where the check fails, instead of written with 0, is assumption 10: it is 0 there in
every run. -/
def Obligations.VerifyEndMarker : Prop :=
  (∀ s : State, s.pos = .foundFrame .verify → s.free →
    let t := s.regs.startOff.toNat + 5 + s.regs.dlen.toNat
    workUnit s = .next (
      if t + 1 < s.regs.len.toNat ∧ s.byteAt (t + 1) = 0x16 then
        { s with
          pos := .foundFrame .leave
          regs := { s.regs with toff := BitVec.ofNat 16 t, status := setFlag s.regs.status .complete } }
      else
        State.offering { s with
          pos := .foundFrame .leave, regs := { s.regs with toff := BitVec.ofNat 16 t } }
          [{ diag := true, off := BitVec.ofNat 16 (t + 1), len := 1, tag := 1, raw := false, val := 0 }])) ∧
  ∀ s : State, s.pos = .foundFrame .leave → workUnit s = .next { s with pos := .header (.field 0) }

/-- R154, R156, R157, R271, R272: the trailer's two fields. Where T < LEN, CSUM_DECL takes the declared byte and its
field is offered; else no register is written and no compare follows. The end-marker field is offered whenever the
byte at T+1 is present, whatever its value; then DONE is entered with DONE set and BUSY cleared. -/
def Obligations.TrailerFields : Prop :=
  (∀ s : State, s.pos = .trailer .declared → s.free →
    let t := s.regs.toff.toNat
    workUnit s = .next (
      if t < s.regs.len.toNat then
        State.offering { s with pos := .trailer .compare, regs := { s.regs with csumDecl := s.byteAt t } }
          [fieldEvent t 1 .ftChecksum ((s.byteAt t).setWidth 16)]
      else { s with pos := .trailer .endMark })) ∧
  (∀ s : State, s.pos = .trailer .endMark → s.free →
    let t := s.regs.toff.toNat
    workUnit s = .next (
      if t + 1 < s.regs.len.toNat then
        State.offering { s with pos := .trailer .leave } [fieldEvent (t + 1) 1 .ftEnd ((s.byteAt (t + 1)).setWidth 16)]
      else { s with pos := .trailer .leave })) ∧
  ∀ s : State, s.pos = .trailer .leave →
    workUnit s = .next { s with
      pos := .done, regs := { s.regs with status := clearFlag (setFlag s.regs.status .done) .busy } }

/-- R121, R122, R154, R155: the compare: CSUM_ACC and CSUM_CALC take the sum of [s+4, T), CSUM_CHECKED is set; where the
sum equals CSUM_DECL, CSUM_OK is set, and otherwise the CHECKSUM_MISMATCH diagnostic is offered with both values. -/
def Obligations.TrailerCompares : Prop :=
  ∀ s : State, s.pos = .trailer .compare → s.free →
    s.regs.startOff.toNat + 4 ≤ s.regs.toff.toNat → s.regs.toff.toNat < s.regs.len.toNat →
    let lo := s.regs.startOff.toNat + 4
    let c : Byte := BitVec.ofNat 8 ((List.range (s.regs.toff.toNat - lo)).map (fun k => (s.byteAt (lo + k)).toNat)).sum
    workUnit s = .next (
      if c = s.regs.csumDecl then
        { s with
          pos := .trailer .endMark
          regs := { s.regs with
            csumAcc := c, csumCalc := c, status := setFlag (setFlag s.regs.status .csumChecked) .csumOk } }
      else
        State.offering { s with
          pos := .trailer .endMark
          regs := { s.regs with csumAcc := c, csumCalc := c, status := setFlag s.regs.status .csumChecked } }
          [{ diag := true, off := c.setWidth 16, len := 2, tag := 2, raw := false,
             val := s.regs.csumDecl.setWidth 16 }])

/-! ### Header decode -/

/-- R266: the six header fields, one after the other, each one byte at s + k with its own tag. -/
def Obligations.HeaderFields : Prop :=
  ∀ (s : State) (k : Nat) (tag : Tag), s.pos = .header (.field k) → s.free →
    [Tag.ftStart, .ftLength, .ftLength2, .ftStart2, .ftControl, .baosMain][k]? = some tag →
    s.regs.startOff.toNat + 6 ≤ s.regs.len.toNat →
    workUnit s = .next (State.offering { s with pos := .header (.field (k + 1)) }
      [fieldEvent (s.regs.startOff.toNat + k) 1 tag ((s.byteAt (s.regs.startOff.toNat + k)).setWidth 16)])

/-- R192: the sub-service byte at P+1 is read where it fits: SUB, SUB_VALID and its field, then the dispatch: KIND takes
the mux's output for SUB, and UNKNOWN_SUB is set where that is NONE. Where the byte does not fit, TRUNC is set and KIND
stays as it is. PAYLOAD_DECODED follows (R270). -/
def Obligations.SubServiceReadAndDispatched : Prop :=
  (∀ s : State, s.pos = .header (.field 6) → workUnit s = .next { s with pos := .header .sub }) ∧
  (∀ s : State, s.pos = .header .sub → s.free →
    let a := s.regs.startOff.toNat + 6
    workUnit s = .next (
      if a < s.regs.len.toNat then
        State.offering { s with
          pos := .header .dispatch
          regs := { s.regs with sub := s.byteAt a, status := setFlag s.regs.status .subValid } }
          [fieldEvent a 1 .baosSub ((s.byteAt a).setWidth 16)]
      else { s with pos := .header .leave, regs := s.regs.flagged .trunc })) ∧
  (∀ s : State, s.pos = .header .dispatch → s.free →
    workUnit s = .next { s with
      pos := .header .leave
      regs := { s.regs with
        kind := (dispatch s.regs.sub).kind.code
        status := if (dispatch s.regs.sub).kind = .none then setFlag s.regs.status .unknownSub
          else s.regs.status } }) ∧
  ∀ s : State, s.pos = .header .leave → workUnit s = .next { s with pos := .payload .listHeader }

/-! ### Bodies: the list header, the same for all 18 sub-services -/

/-- R201, R202, R63: the list header, alike for all 18 sub-services. START_ID takes the big-endian word at P+2 with
its VALID bit and its field, tagged START_INDEX for 0x07 and 0x87 and START_ID for the other sixteen; COUNT takes the
word at P+4 with its VALID bit and its field. Nothing else changes. -/
def Obligations.ListHeaderFields : Prop :=
  ∀ (i : Instr) (s : State), s.free →
    let a := s.regs.startOff.toNat + 7
    let v : Word := s.byteAt a ++ s.byteAt (a + 1)
    let n : Word := s.byteAt (a + 2) ++ s.byteAt (a + 3)
    (s.pos = .payload .listHeader → a + 2 ≤ s.regs.len.toNat →
      exec i s = .next (State.offering { s with
        pos := .payload .countField
        regs := { s.regs with startId := v, status := setFlag s.regs.status .startIdValid } }
        [fieldEvent a 2 (if i ∈ [.getParameterByteReq, .getParameterByteRes] then .startIndex else .startId) v])) ∧
    (s.pos = .payload .countField → a + 4 ≤ s.regs.len.toNat →
      exec i s = .next (State.offering { s with
        pos := .payload .select
        regs := { s.regs with count := n, status := setFlag s.regs.status .countValid } }
        [fieldEvent (a + 2) 2 .count n]))

/-- R201, R202, R205, R214: a list-header field that does not fit sets TRUNC and ends the body; it is neither read nor
emitted, and nothing else changes. -/
def Obligations.ListHeaderTruncated : Prop :=
  ∀ (i : Instr) (s : State), s.free →
    (s.pos = .payload .listHeader ∧ s.regs.len.toNat < s.regs.startOff.toNat + 9) ∨
    (s.pos = .payload .countField ∧ s.regs.len.toNat < s.regs.startOff.toNat + 11) →
    exec i s = .next { s with pos := .payload .leave, regs := s.regs.flagged .trunc }

/-- R172, R205, R270: when the body has ended the trailer phase follows, truncated or not, and nothing else changes;
and where SUB is none of the 18 codes PAYLOAD_DECODED does nothing at all. The rules test KIND = NONE; that the model
looks at SUB instead is assumption 9, and the invariant says that KIND is the mux's output for SUB. -/
def Obligations.BodyLeadsToTrailer : Prop :=
  (∀ (i : Instr) (s : State), s.pos = .payload .leave → exec i s = .next { s with pos := .trailer .declared }) ∧
  ∀ (s : State) (p : BodyPos), s.pos = .payload p → (∀ i : Instr, i.code ≠ s.regs.sub) →
    workUnit s = .next { s with pos := .trailer .declared }

/-! ### Bodies: what follows the list header -/

/-- R215: after the list header of 0x01, 0x03, 0x04, 0x07 and 0x08 nothing more is decoded, whatever the count. The
selection ends the body; and the whole body, from the list header on, emits the two header fields and writes START_ID
and COUNT (and the cursor and index, R202). -/
def Obligations.HeaderOnlyRequestBody : Prop :=
  ∀ (i : Instr) (s : State), i ∈ headerOnlyRequests → s.free →
    let a := s.regs.startOff.toNat + 7
    let id : Word := s.byteAt a ++ s.byteAt (a + 1)
    let n : Word := s.byteAt (a + 2) ++ s.byteAt (a + 3)
    (s.pos = .payload .select →
      exec i s = .next { s with
        pos := .payload .leave, regs := { s.regs with cur := BitVec.ofNat 16 (a + 4), idx := 0 } }) ∧
    (s.pos = .payload .listHeader → a + 4 ≤ s.regs.len.toNat →
      ∃ t, bodyReaches i s t ∧
        BodyRan s t .leave
          { s.regs with
            startId := id, count := n, cur := BitVec.ofNat 16 (a + 4), idx := 0
            status := setFlag (setFlag s.regs.status .startIdValid) .countValid }
          [fieldEvent a 2 (if i = .getParameterByteReq then .startIndex else .startId) id,
           fieldEvent (a + 2) 2 .count n])

/-- R216, R203: after the list header of 0x82, 0x86 and 0x88, COUNT = 0 makes the byte at P+6 the error code: ERRCODE,
ERRCODE_VALID and its field, or TRUNC where it does not fit; a COUNT other than 0 decodes nothing more. The body ends
there. -/
def Obligations.HeaderOnlyResponseBody : Prop :=
  ∀ (i : Instr) (s : State), i ∈ headerOnlyResponses → s.pos = .payload .select → s.free →
    let a := s.regs.startOff.toNat + 11
    let g : Regs := { s.regs with cur := BitVec.ofNat 16 a, idx := 0 }
    exec i s = .next (
      if s.regs.count ≠ 0 then { s with pos := .payload .leave, regs := g }
      else if a < s.regs.len.toNat then
        State.offering { s with
          pos := .payload .leave
          regs := { g with errcode := s.byteAt a, status := setFlag s.regs.status .errcodeValid } }
          [fieldEvent a 1 .errorCode ((s.byteAt a).setWidth 16)]
      else { s with pos := .payload .leave, regs := g.flagged .trunc })

/-- R203, R204, R202: the selection of the sub-services that carry records. The seven responses and indications with
COUNT = 0 take the byte at P+6 as the error code, or set TRUNC where it does not fit, and end; with another COUNT they
enter the record loop with CUR = P+6 and IDX = 0. The two requests 0x02 and 0x06 enter it whatever COUNT is: an empty
list reads no byte at P+6. -/
def Obligations.RecordListSelection : Prop :=
  ∀ (i : Instr) (s : State), s.pos = .payload .select → s.free →
    let a := s.regs.startOff.toNat + 11
    let g : Regs := { s.regs with cur := BitVec.ofNat 16 a, idx := 0 }
    (i ∈ recordRequests → exec i s = .next { s with pos := .payload .record, regs := g }) ∧
    (i ∈ recordAnswers → exec i s = .next (
      if s.regs.count ≠ 0 then { s with pos := .payload .record, regs := g }
      else if a < s.regs.len.toNat then
        State.offering { s with
          pos := .payload .leave
          regs := { g with errcode := s.byteAt a, status := setFlag s.regs.status .errcodeValid } }
          [fieldEvent a 1 .errorCode ((s.byteAt a).setWidth 16)]
      else { s with pos := .payload .leave, regs := g.flagged .trunc }))

/-- R217: 0x05 emits the byte at P+6 as DP_FILTER whatever COUNT is, and stores it in no register; where it does not
fit, TRUNC is set. The body ends there. -/
def Obligations.FilterByte : Prop :=
  ∀ s : State, s.pos = .payload .select → s.free →
    let a := s.regs.startOff.toNat + 11
    let g : Regs := { s.regs with cur := BitVec.ofNat 16 a, idx := 0 }
    exec .getDatapointValueReq s = .next (
      if a < s.regs.len.toNat then
        State.offering { s with pos := .payload .leave, regs := g }
          [fieldEvent a 1 .dpFilter ((s.byteAt a).setWidth 16)]
      else { s with pos := .payload .leave, regs := g.flagged .trunc })

/-- R206, R207, R210, R214: the loop test and the prefix guard, for every sub-service that carries records, with H the
size of its fixed prefix: IDX = COUNT ends the loop; a prefix that does not fit as a whole sets TRUNC and ends it; no
event in either case. -/
def Obligations.RecordLoopTest : Prop :=
  ∀ (i : Instr) (h : Nat) (s : State), (i, h) ∈ prefixSizes → s.pos = .payload .record → s.free →
    exec i s = .next (
      if s.regs.count.toNat ≤ s.regs.idx.toNat then { s with pos := .payload .leave }
      else if s.regs.cur.toNat + h ≤ s.regs.len.toNat then { s with pos := .payload (.lead 0) }
      else { s with pos := .payload .leave, regs := s.regs.flagged .trunc })

/-! ### Bodies: one record of each kind, from the loop test on -/

/-- R220, R225-R229, R208, R209, R213: a server item record of 0x02, 0x81 and 0xC2 whose prefix fits: id and length;
then, where the n data bytes fit, the data as RAW, the typed view the id and n select, and the advance by 3 + n; where
they do not fit, TRUNC and the end of the body, the record not counted. The type of an id is the configuration's;
under the decided configuration it is the table of R225. That table and the splits of the views are assumption 17
(PRESUMED). -/
def Obligations.ServerItemRecord : Prop :=
  ∀ (i : Instr) (s : State), i ∈ [.setServerItemReq, .getServerItemRes, .serverItemInd] →
    s.pos = .payload .record → s.free → s.regs.idx.toNat < s.regs.count.toNat →
    let c := s.regs.cur.toNat
    let id : Word := s.byteAt c ++ s.byteAt (c + 1)
    let n := (s.byteAt (c + 2)).toNat
    let d : Word := (s.byteAt (c + 3)).setWidth 16
    let v : Word := s.byteAt (c + 3) ++ s.byteAt (c + 4)
    let type := viewOf s.params.siType id.toNat
    let fixed := [fieldEvent c 2 .siId id, fieldEvent (c + 2) 1 .siLength (BitVec.ofNat 16 n)]
    let view :=
      if n = 1 ∧ type = .version then
        [fieldEvent (c + 3) 1 .siVerMajor (d / 16), fieldEvent (c + 3) 1 .siVerMinor (d % 16)]
      else if n = 1 ∧ type = .flag then [fieldEvent (c + 3) 1 .siFlag (d % 2)]
      else if n = 1 ∧ type = .baud then [fieldEvent (c + 3) 1 .siBaudrate d]
      else if n = 2 ∧ type = .address then
        [fieldEvent (c + 3) 2 .siAddrArea (v / 4096), fieldEvent (c + 3) 2 .siAddrLine (v / 256 % 16),
         fieldEvent (c + 3) 2 .siAddrDevice (v % 256)]
      else []
    (c + 3 ≤ s.regs.len.toNat →
      if c + 3 + n ≤ s.regs.len.toNat then
        ∃ t, bodyReaches i s t ∧
          BodyRan s t .record (s.regs.advanced (3 + n)) (fixed ++ [rawEvent (c + 3) n .siData] ++ view)
      else ∃ t, bodyReaches i s t ∧ BodyRan s t .leave (s.regs.flagged .trunc) fixed) ∧
    (s.params = decidedParams →
      type =
        if id.toNat ∈ [2, 3, 7, 16, 18, 19] then .version else if id.toNat ∈ [10, 15, 17] then .flag
        else if id.toNat = 13 then .baud else if id.toNat = 20 then .address else .raw)

/-- R230, R231, R208, R209, R213: a datapoint value record in state form, of 0x85 and 0xC1. The places of the four state
fields are the configuration's; under the decided configuration they are those of R231 (assumption 17, PRESUMED). -/
def Obligations.DatapointStateRecord : Prop :=
  ∀ (i : Instr) (s : State), i ∈ [.getDatapointValueRes, .datapointValueInd] →
    s.pos = .payload .record → s.free → s.regs.idx.toNat < s.regs.count.toNat →
    let c := s.regs.cur.toNat
    let id : Word := s.byteAt c ++ s.byteAt (c + 1)
    let st : Word := (s.byteAt (c + 2)).setWidth 16
    let n := (s.byteAt (c + 3)).toNat
    let l := s.params.dpState
    let fixed :=
      [fieldEvent c 2 .dpId id, fieldEvent (c + 2) 1 .dpState st,
       fieldEvent (c + 2) 1 .dpStValid (bitsOf l.valid st), fieldEvent (c + 2) 1 .dpStUpdated (bitsOf l.updated st),
       fieldEvent (c + 2) 1 .dpStReadreq (bitsOf l.readReq st), fieldEvent (c + 2) 1 .dpStTrans (bitsOf l.trans st),
       fieldEvent (c + 3) 1 .dpLength (BitVec.ofNat 16 n)]
    (c + 4 ≤ s.regs.len.toNat →
      if c + 4 + n ≤ s.regs.len.toNat then
        ∃ t, bodyReaches i s t ∧
          BodyRan s t .record (s.regs.advanced (4 + n)) (fixed ++ [rawEvent (c + 4) n .dpValue])
      else ∃ t, bodyReaches i s t ∧ BodyRan s t .leave (s.regs.flagged .trunc) fixed) ∧
    (s.params = decidedParams →
      [l.valid, l.updated, l.readReq, l.trans].map (fun r => bitsOf r st) = [st % 2, st / 2 % 2, st / 4 % 2, st / 8 % 2])

/-- R232, R233, R208, R209, R213: a datapoint value record in command form, of 0x06; the command byte is not split. -/
def Obligations.DatapointCommandRecord : Prop :=
  ∀ s : State, s.pos = .payload .record → s.free → s.regs.idx.toNat < s.regs.count.toNat →
    let c := s.regs.cur.toNat
    let id : Word := s.byteAt c ++ s.byteAt (c + 1)
    let n := (s.byteAt (c + 3)).toNat
    let fixed :=
      [fieldEvent c 2 .dpId id, fieldEvent (c + 2) 1 .dpCommand ((s.byteAt (c + 2)).setWidth 16),
       fieldEvent (c + 3) 1 .dpLength (BitVec.ofNat 16 n)]
    c + 4 ≤ s.regs.len.toNat →
    if c + 4 + n ≤ s.regs.len.toNat then
      ∃ t, bodyReaches .setDatapointValueReq s t ∧
        BodyRan s t .record (s.regs.advanced (4 + n)) (fixed ++ [rawEvent (c + 4) n .dpValue])
    else ∃ t, bodyReaches .setDatapointValueReq s t ∧ BodyRan s t .leave (s.regs.flagged .trunc) fixed

/-- R235, R236, R237, R245, R209: the two record kinds of a fixed stride. A datapoint descriptor record of 0x83: 5
bytes, with the 7 sub-fields of the config flags, whose places are the configuration's; under the decided
configuration they are those of R236 (assumption 17, PRESUMED). A parameter byte record of 0x87: one byte. -/
def Obligations.FixedStrideRecords : Prop :=
  ∀ s : State, s.pos = .payload .record → s.free → s.regs.idx.toNat < s.regs.count.toNat →
    let c := s.regs.cur.toNat
    let id : Word := s.byteAt c ++ s.byteAt (c + 1)
    let cf : Word := (s.byteAt (c + 3)).setWidth 16
    let l := s.params.cfg
    (c + 5 ≤ s.regs.len.toNat →
      ∃ t, bodyReaches .getDatapointDescriptionRes s t ∧
        BodyRan s t .record (s.regs.advanced 5)
          [fieldEvent c 2 .dpId id, fieldEvent (c + 2) 1 .ddValueType ((s.byteAt (c + 2)).setWidth 16),
           fieldEvent (c + 3) 1 .ddConfig cf,
           fieldEvent (c + 3) 1 .ddCfgPrio (bitsOf l.prio cf), fieldEvent (c + 3) 1 .ddCfgComm (bitsOf l.comm cf),
           fieldEvent (c + 3) 1 .ddCfgRead (bitsOf l.read cf), fieldEvent (c + 3) 1 .ddCfgWrite (bitsOf l.write cf),
           fieldEvent (c + 3) 1 .ddCfgRinit (bitsOf l.rinit cf), fieldEvent (c + 3) 1 .ddCfgTrans (bitsOf l.trans cf),
           fieldEvent (c + 3) 1 .ddCfgUpdresp (bitsOf l.updresp cf),
           fieldEvent (c + 4) 1 .ddDpt ((s.byteAt (c + 4)).setWidth 16)]) ∧
    (c + 1 ≤ s.regs.len.toNat →
      ∃ t, bodyReaches .getParameterByteRes s t ∧
        BodyRan s t .record (s.regs.advanced 1) [fieldEvent c 1 .pbValue ((s.byteAt c).setWidth 16)]) ∧
    (s.params = decidedParams →
      [l.prio, l.comm, l.read, l.write, l.rinit, l.trans, l.updresp].map (fun r => bitsOf r cf) =
        [cf % 4, cf / 4 % 2, cf / 8 % 2, cf / 16 % 2, cf / 32 % 2, cf / 64 % 2, cf / 128 % 2])

/-- R240, R208, R209, R213: a description string record of 0x84: a 16-bit length, then the text as RAW. -/
def Obligations.DescriptionStringRecord : Prop :=
  ∀ s : State, s.pos = .payload .record → s.free → s.regs.idx.toNat < s.regs.count.toNat →
    let c := s.regs.cur.toNat
    let len : Word := s.byteAt c ++ s.byteAt (c + 1)
    let n := len.toNat
    c + 2 ≤ s.regs.len.toNat →
    if c + 2 + n ≤ s.regs.len.toNat then
      ∃ t, bodyReaches .getDescriptionStringRes s t ∧
        BodyRan s t .record (s.regs.advanced (2 + n)) [fieldEvent c 2 .dsLength len, rawEvent (c + 2) n .dsText]
    else ∃ t, bodyReaches .getDescriptionStringRes s t ∧
      BodyRan s t .leave (s.regs.flagged .trunc) [fieldEvent c 2 .dsLength len]

/-! ### Bodies: frames -/

/-- R200: what a body leaves alone, whatever the sub-service and the position: the buffer and every byte of it, the
configuration, the host's inputs, what the sink holds, every register but START_ID, COUNT, ERRCODE, CUR, IDX and
REC_DONE, and every STATUS bit but START_ID_VALID, COUNT_VALID, ERRCODE_VALID and TRUNC; it only appends FIELD events
to those waiting. No request writes ERRCODE or ERRCODE_VALID (R203), and no sub-service without records writes
REC_DONE. -/
def Obligations.BodyFrame : Prop :=
  ∀ (i : Instr) (s t : State), exec i s = .next t →
    SameSurroundings s t ∧ t.sink = s.sink ∧ (∀ a, Memory.read t.buf a = Memory.read s.buf a) ∧
    t.regs.len = s.regs.len ∧ t.regs.startOff = s.regs.startOff ∧ t.regs.dlen = s.regs.dlen ∧
    t.regs.ctrl = s.regs.ctrl ∧ t.regs.toff = s.regs.toff ∧ t.regs.sub = s.regs.sub ∧ t.regs.kind = s.regs.kind ∧
    t.regs.csumDecl = s.regs.csumDecl ∧ t.regs.csumCalc = s.regs.csumCalc ∧ t.regs.scanI = s.regs.scanI ∧
    t.regs.ftFound = s.regs.ftFound ∧ t.regs.csumAcc = s.regs.csumAcc ∧
    (∀ f : StatusBit, f ∉ [.startIdValid, .countValid, .errcodeValid, .trunc] → t.flag f = s.flag f) ∧
    t.regs.status &&& 0xE000 = s.regs.status &&& 0xE000 ∧
    (∃ es, t.waiting = s.waiting ++ es ∧ ∀ w ∈ es, w.diag = false) ∧
    (i.code.toNat < 0x80 → t.regs.errcode = s.regs.errcode ∧ t.flag .errcodeValid = s.flag .errcodeValid) ∧
    ((∀ h, (i, h) ∉ prefixSizes) → t.regs.recDone = s.regs.recDone)

/-- The model's choice (assumption 7), on R200 and R270: a body is decoded in PAYLOAD_DECODED alone; called anywhere
else a meaning stops with the fault `outsidePayload`; and no step from any state answers that fault. -/
def Obligations.BodyOutsidePayloadStops : Prop :=
  (∀ (i : Instr) (s : State), s.pos.phase ≠ .payloadDecoded → exec i s = .fault .outsidePayload) ∧
  ∀ s : State, step s ≠ .fault .outsidePayload

/-! ### The step -/

/-- R261, R279: where no input stands in the way and the event port is empty, a step of a running transaction is one
unit of its phase's work (how much work a step does is the model's choice, assumption 5). -/
def Obligations.StepDoesPhaseWork : Prop :=
  ∀ s : State, s.pos.busy = true → s.free → s.clear → step s = mapNext State.elapse (workUnit s)

/-- R170, R270: in PAYLOAD_DECODED that unit is the meaning of the instruction SUB decodes to, and then only the host's
inputs and the step number move on. That SUB alone selects it, whatever KIND holds, is assumption 9 (the invariant says
that KIND is the mux's output for SUB); that a step runs one unit of it is assumption 5. -/
def Obligations.StepRunsDecodedInstruction : Prop :=
  ∀ (s : State) (p : BodyPos) (i : Instr), s.pos = .payload p → decode [s.regs.sub] = .ok (i, []) →
    s.free → s.clear → step s = mapNext State.elapse (exec i s)

/-- R267: an event in PEND is accepted in the first step in which the sink is ready: it goes to the sink, EV_VALID
falls, and the block does nothing else; that the other wires keep their values is the model's choice (assumption 15). -/
def Obligations.SinkAcceptsEvent : Prop :=
  ∀ s : State, s.pins.rst = false → s.pend.valid = true → s.pins.evReady = true →
    ∃ t, step s = .next t ∧ t.sink = s.sink ++ [s.pend.wires] ∧ t.pend = { s.pend with valid := false } ∧
      t.burst = s.burst ∧ t.regs = s.regs ∧ t.pos = s.pos

/-- R275: for every schedule of the other inputs, as long as the sink withholds EV_READY and RST stays low, an event in
PEND stays there and the block writes no register, changes no phase and takes no event: stuck until RST. -/
def Obligations.SinkStallsBlock : Prop :=
  ∀ (n : Nat) (s : State), s.pend.valid = true →
    (∀ p ∈ s.pins :: s.script, p.evReady = false ∧ p.rst = false) →
    ∃ t, runsTo n s t ∧ t.pend = s.pend ∧ t.regs = s.regs ∧ t.pos = s.pos ∧ t.burst = s.burst ∧ t.sink = s.sink

/-- R267: without RST no step loses, repeats or reorders an event: the sequence of all events emitted so far only
grows at its end, and it does not grow while an event is still waiting. -/
def Obligations.TraceOnlyGrows : Prop :=
  ∀ s t : State, s.pins.rst = false → step s = .next t →
    ∃ es, t.trace = s.trace ++ es ∧ (s.waiting ≠ [] → es = []) ∧ (t.sink = s.sink ∨ t.sink = s.sink ++ [s.pend.wires])

/-- R268, R269, R318: every event that a step adds is a FIELD event with a tag of R269, whose value is 0 when it is
raw, or one of the two diagnostics with their severities. -/
def Obligations.EmittedEventsEncoded : Prop :=
  ∀ (s t : State) (es : List Wires), s.pins.rst = false → step s = .next t → t.trace = s.trace ++ es →
    ∀ w ∈ es,
      (w.diag = false ∧ (∃ tag : Tag, w.tag = tag.code) ∧ (w.raw = true → w.val = 0)) ∨
      (w.diag = true ∧ w.raw = false ∧ w.tag = 1 ∧ w.len = 1 ∧ w.val = 0) ∨
      (w.diag = true ∧ w.raw = false ∧ w.tag = 2 ∧ w.len = 2)

/-- R262, R44: START in IDLE or DONE is accepted: every register but LEN takes its reset value, LEN takes LEN_IN, STATUS
is BUSY alone, SCANNING is entered; PEND and what the sink holds stay. R334: the transaction's reads are those of its
buffer (`unstable` is false) where the host has no store left; and where they are, the host changes no byte of it for as
long as the transaction runs, so no definite byte is read in a transaction that the host disturbs (assumption 2). -/
def Obligations.StartBeginsTransaction : Prop :=
  ∀ s : State, s.pos = .idle ∨ s.pos = .done → s.pend.valid = false → s.pins.rst = false → s.pins.start = true →
    ∃ t, step s = .next t ∧ t.pos = .scanning ∧ t.pend = s.pend ∧ t.sink = s.sink ∧
      t.regs = { Regs.reset with len := s.pins.lenIn, status := 0x0002 } ∧
      ((∀ p ∈ s.pins :: s.script, p.store = none) → t.unstable = false) ∧
      (t.unstable = false → ∀ n u, runsTo n t u →
        (∀ k v, k ≤ n → runsTo k t v → v.pos.busy = true) → u.unstable = false)

/-- R273: while a transaction runs START, LEN_IN and RREG make no difference at all to what a step does. -/
def Obligations.StartIgnoredWhileBusy : Prop :=
  ∀ (s t : State) (go : Bool) (n : Word) (r : BitVec 4), s.pos.busy = true → step s = .next t →
    ∃ u, step { s with pins := { s.pins with start := go, lenIn := n, rreg := r } } = .next u ∧
      u.regs = t.regs ∧ u.pos = t.pos ∧ u.pend = t.pend ∧ u.burst = t.burst ∧ u.buf = t.buf ∧
      u.unstable = t.unstable ∧ u.sink = t.sink ∧ u.script = t.script ∧ u.tick = t.tick

/-- R330, R331: RST before everything else, in any state: every register 0, PHASE = IDLE, PEND empty and nothing more to
come of the transaction; what the sink has accepted stands, and the buffer is touched by the host's store alone. -/
def Obligations.ResetStep : Prop :=
  ∀ s : State, s.pins.rst = true →
    ∃ t, step s = .next t ∧ t.pos = .idle ∧
      t.regs = { len := 0, status := 0, startOff := 0, dlen := 0, ctrl := 0, toff := 0, sub := 0, kind := 0,
                 startId := 0, count := 0, errcode := 0, csumDecl := 0, csumCalc := 0, recDone := 0, cur := 0,
                 idx := 0, scanI := 0, ftFound := false, csumAcc := 0 } ∧
      t.pend = { valid := false, wires := { diag := false, off := 0, len := 0, tag := 0, raw := false, val := 0 } } ∧
      t.burst = [] ∧ t.sink = s.sink ∧ t.donePort = false ∧ t.busyPort = false ∧ (s.pins.store = none → t.buf = s.buf)

/-- R317: in IDLE and DONE nothing happens until START or RST, and every register keeps its value. -/
def Obligations.IdleAndDoneStable : Prop :=
  ∀ s : State, s.pos = .idle ∨ s.pos = .done → s.pend.valid = false → s.pins.rst = false → s.pins.start = false →
    ∃ t, step s = .next t ∧ t.regs = s.regs ∧ t.pos = s.pos ∧ t.pend = s.pend ∧ t.burst = s.burst ∧ t.sink = s.sink

/-- R41: without RST and without an accepted START no STATUS bit but BUSY is cleared, and BUSY is cleared on entry to
DONE only. -/
def Obligations.StatusBitsOnlySet : Prop :=
  ∀ (s t : State) (f : StatusBit), s.pins.rst = false → s.pos.busy = true ∨ s.pins.start = false →
    step s = .next t → s.flag f = true → t.flag f = true ∨ (f = .busy ∧ s.pos ≠ .done ∧ t.pos = .done)

/-- R61, R71: a step changes the buffer only where the host stores in it: every other byte reads as before; and no step
changes the configuration. -/
def Obligations.BlockNeverWritesBuffer : Prop :=
  ∀ s t : State, step s = .next t →
    t.params = s.params ∧ (s.pins.store = none → t.buf = s.buf) ∧
    ∀ (w : HostStore) (a : Nat), s.pins.store = some w →
      Memory.read t.buf a = if a = w.addr.val then some w.byte else Memory.read s.buf a

/-- R261: PHASE moves only as its table says, RST excepted, which leads to IDLE. -/
def Obligations.PhaseTransitions : Prop :=
  ∀ s t : State, step s = .next t →
    if s.pins.rst then t.pos.phase = .idle else t.pos.phase ∈ phaseStep s.pos.phase

/-- R42, R21, R49: with BUSY = 0 the result read port answers each of the registers 0 to 12 zero-extended and 0 for
13 to 15. R336: with BUSY = 1 only the register's width is known of the answer; that STATUS counts as its 13 named bits
there, and registers 13 to 15 as no bit, is assumption 3. -/
def Obligations.ResultPortReads : Prop :=
  ∀ s : State,
    (s.busyPort = false →
      [0, 1, 2, 3, 4, 5, 6, 7, 8, 9, 10, 11, 12, 13, 14, 15].map s.rdataOf =
        [s.regs.status, s.regs.startOff.setWidth 16, s.regs.dlen.setWidth 16, s.regs.ctrl.setWidth 16, s.regs.toff,
         s.regs.sub.setWidth 16, s.regs.kind.setWidth 16, s.regs.startId, s.regs.count, s.regs.errcode.setWidth 16,
         s.regs.csumDecl.setWidth 16, s.regs.csumCalc.setWidth 16, s.regs.recDone, 0, 0, 0]) ∧
    ∀ r : BitVec 4, s.busyPort = true → (s.rdataOf r).toNat < 2 ^ regWidth r

/-- R43: the reset value of every piece of state, which a step under RST gives too; such a step does not touch the
buffer. -/
def Obligations.ResetValues : Prop :=
  State.reset.regs =
    { len := 0, status := 0, startOff := 0, dlen := 0, ctrl := 0, toff := 0, sub := 0, kind := 0, startId := 0,
      count := 0, errcode := 0, csumDecl := 0, csumCalc := 0, recDone := 0, cur := 0, idx := 0, scanI := 0,
      ftFound := false, csumAcc := 0 } ∧
  State.reset.pos.phase = .idle ∧
  State.reset.pend = { valid := false, wires := { diag := false, off := 0, len := 0, tag := 0, raw := false, val := 0 } } ∧
  ∀ s : State, s.pins.rst = true → ∃ t, step s = .next t ∧
    t.regs = State.reset.regs ∧ t.pos.phase = .idle ∧ t.pend = State.reset.pend ∧ (s.pins.store = none → t.buf = s.buf)

/-! ### The machine's invariant -/

/-- The invariant holds right after reset (R43); and no byte of the buffer is backed there, so that every read returns
any byte (R43, R335), which the model's list says by listing nothing (assumption 2). -/
def Obligations.InvariantAtReset : Prop :=
  Inv State.reset ∧ AbsentReadsZero State.reset ∧ ∀ a, Memory.read State.reset.buf a = none

/-- Every step keeps the invariant, from every state that meets it, whatever the inputs and whatever the buffer's
bytes: the buffer's canonical form, the reserved bits, BUSY and DONE against PHASE (R40, R262, R272), CSUM_OK against
the compare (R40), REC_DONE and IDX within COUNT (R33, R35), CUR within LEN (R34), every waiting event inside the
buffer (R62, R268), KIND as the mux's output for SUB (R27, R173), CTRL as the control code read in a buffer left alone
(R24), and what each position relies on. CUR <= LEN (R34), SHORT against RECOGNIZED (R306) and the raw ranges (R268)
are inferences that the spec marks as its own; the control code's clause is silent where assumption 2 makes the byte
free. -/
def Obligations.InvariantKept : Prop := ∀ s t : State, Inv s → step s = .next t → Inv t

/-- R307 (marked as the spec's own inference), R62: from every state that meets the invariant a step answers a next
state: no input and no buffer content leads to a fault, a refusal or a read at an address >= LEN. -/
def Obligations.InvariantNeverStops : Prop := ∀ s : State, Inv s → ∃ t, step s = .next t

/-- R45, R27, R31, R32: a register that no rule has written in the transaction reads 0 while its VALID bit is 0; every
step keeps that. -/
def Obligations.AbsentRegistersReadZero : Prop :=
  ∀ s t : State, Inv s → AbsentReadsZero s → step s = .next t → AbsentReadsZero t

/-- R278, R307 (marked as the spec's own inferences) and R334: every transaction ends: if from some step on the sink
accepts every event, and the host neither resets nor starts, the machine reaches a state in which no transaction runs,
even when the host changes the buffer meanwhile, and however the latency oracle holds the block (R279). -/
def Obligations.EveryTransactionEnds : Prop :=
  ∀ s : State, Inv s → s.settles → ∃ n t, runsTo n s t ∧ t.pos.busy = false ∧ (s.pos.busy = true → t.pos = .done)

/-! ### The whole transaction -/

/-- R260, R276, R267, R279, of which the two conclusions are marked as the spec's own inferences: whatever the sink's
schedule and the block's latency, a transaction that the host leaves alone (no RST, no store, its buffer backed)
leads, when it first reaches DONE, to exactly the registers of DECODE and hands the sink exactly its events, in order. -/
def Obligations.RunsRefineDecode : Prop :=
  ∀ (n : Nat) (s t : State), s.pos = .idle ∨ s.pos = .done → s.free → s.pins.start = true →
    (∀ p ∈ s.pins :: s.script, p.quiet) → s.backed s.pins.lenIn.toNat →
    0 < n → runsTo n s t → t.pos = .done → (∀ k u, 0 < k → k < n → runsTo k s u → u.pos.busy = true) →
    let d := decodeTransaction s.params (fun a => (Memory.read s.buf a).getD 0) s.pins.lenIn
    t.regs = d.regs ∧ t.sink = s.sink ++ d.events

/-- R260, which the spec marks as its own inference, R135, R62: the outcome of DECODE is a function of LEN and of the
bytes below LEN alone. R10: under two configurations the registers are the same; and where the two agree on P_SI_TYPE,
so are the events but for the values of FIELD events. -/
def Obligations.OutcomeDependsOnBuffer : Prop :=
  (∀ (conf : Params) (b c : Nat → Byte) (n : Word), (∀ a, a < n.toNat → c a = b a) →
    decodeTransaction conf c n = decodeTransaction conf b n) ∧
  ∀ (conf other : Params) (b : Nat → Byte) (n : Word),
    (decodeTransaction other b n).regs = (decodeTransaction conf b n).regs ∧
    (other.siType = conf.siType →
      (decodeTransaction other b n).events.map (fun w => { w with val := if w.diag then w.val else 0 }) =
        (decodeTransaction conf b n).events.map (fun w => { w with val := if w.diag then w.val else 0 }))

/-- R301, R306, of which the empty event sequence of a short buffer is marked as the spec's own inference: where no
frame is recognised no event is emitted, every result register but STATUS holds 0, and the transaction is DONE. A
buffer shorter than 10 bytes is never recognised, sets SHORT, and none of its bytes matters. -/
def Obligations.NotRecognizedIsSilent : Prop :=
  (∀ (conf : Params) (b : Nat → Byte) (n : Word),
    let d := decodeTransaction conf b n
    getFlag d.regs.status .recognized = false →
    d.events = [] ∧ getFlag d.regs.status .done = true ∧ getFlag d.regs.status .trunc = false ∧
    d.regs.startOff = 0 ∧ d.regs.dlen = 0 ∧ d.regs.ctrl = 0 ∧ d.regs.toff = 0 ∧ d.regs.sub = 0 ∧ d.regs.kind = 0 ∧
    d.regs.startId = 0 ∧ d.regs.count = 0 ∧ d.regs.errcode = 0 ∧ d.regs.csumDecl = 0 ∧ d.regs.csumCalc = 0 ∧
    d.regs.recDone = 0) ∧
  ∀ (conf : Params) (b c : Nat → Byte) (n : Word), n.toNat < 10 →
    getFlag (decodeTransaction conf b n).regs.status .short = true ∧
    getFlag (decodeTransaction conf b n).regs.status .recognized = false ∧ decodeTransaction conf c n = decodeTransaction conf b n

/-- R62, R268, of which the raw ranges are marked as the spec's own inference: every FIELD event of a transaction, raw
or not, lies inside the buffer. -/
def Obligations.EventsInsideBuffer : Prop :=
  ∀ (conf : Params) (b : Nat → Byte) (n : Word), ∀ w ∈ (decodeTransaction conf b n).events, insideBuffer n.toNat w

/-- R33, R34, R210, of which CUR <= LEN and the bound by LEN are marked as the spec's own inferences: the records
decoded completely are never more than COUNT, nor more than the bytes from P+6 to LEN; and the cursor stays inside the
buffer. R22, R24, R25, R27: where a frame is recognised, START_OFF is at most 4, CTRL is one of the four control codes
and TOFF is START_OFF + 5 + DLEN; KIND is the mux's output for SUB. -/
def Obligations.RecordsBounded : Prop :=
  ∀ (conf : Params) (b : Nat → Byte) (n : Word),
    let g := (decodeTransaction conf b n).regs
    g.recDone.toNat ≤ g.count.toNat ∧ g.cur.toNat ≤ n.toNat ∧
    (0 < g.recDone.toNat → g.startOff.toNat + 11 + g.recDone.toNat ≤ n.toNat) ∧
    (getFlag g.status .recognized = true →
      g.startOff.toNat ≤ 4 ∧ g.ctrl ∈ [0x73, 0x53, 0xF3, 0xD3] ∧
      g.toff.toNat = g.startOff.toNat + 5 + g.dlen.toNat) ∧
    g.kind = (dispatch g.sub).kind.code

/-- R303, R304, R309, R318: the DIAG events of a transaction, in order: FRAME_INCOMPLETE exactly when a frame is
recognised and not COMPLETE, then CHECKSUM_MISMATCH exactly when the checksum was compared and did not match, each
once. -/
def Obligations.DiagnosticsExactly : Prop :=
  ∀ (conf : Params) (b : Nat → Byte) (n : Word),
    let d := decodeTransaction conf b n
    d.events.filter (·.diag) =
      (if getFlag d.regs.status .recognized = true ∧ getFlag d.regs.status .complete = false then
        [{ diag := true, off := d.regs.toff + 1, len := 1, tag := 1, raw := false, val := 0 }] else []) ++
      (if getFlag d.regs.status .csumChecked = true ∧ getFlag d.regs.status .csumOk = false then
        [{ diag := true, off := d.regs.csumCalc.setWidth 16, len := 2, tag := 2, raw := false,
           val := d.regs.csumDecl.setWidth 16 }] else [])

/-- R125, which the spec marks as its own inference: a recognised frame whose byte at T is the sum of [s+4, T) and
whose buffer holds T is CSUM_CHECKED and CSUM_OK and yields no CHECKSUM_MISMATCH event. -/
def Obligations.ChecksumRoundTrip : Prop :=
  ∀ (conf : Params) (b : Nat → Byte) (n : Word),
    let d := decodeTransaction conf b n
    let lo := d.regs.startOff.toNat + 4
    let t := d.regs.toff.toNat
    getFlag d.regs.status .recognized = true → t < n.toNat →
    (b t).toNat = ((List.range (t - lo)).map (fun k => (b (lo + k)).toNat)).sum % 256 →
    getFlag d.regs.status .csumChecked = true ∧ getFlag d.regs.status .csumOk = true ∧
    ∀ w ∈ d.events, w.diag = true → w.tag ≠ 2

/-- R156, whose COMPLETE = 0 the spec marks as its own inference: with T >= LEN there is no FT_CHECKSUM event, no sum,
no compare, no mismatch event, and COMPLETE is 0. -/
def Obligations.AbsentChecksum : Prop :=
  ∀ (conf : Params) (b : Nat → Byte) (n : Word),
    let d := decodeTransaction conf b n
    getFlag d.regs.status .recognized = true → n.toNat ≤ d.regs.toff.toNat →
    getFlag d.regs.status .csumChecked = false ∧ getFlag d.regs.status .csumOk = false ∧
    getFlag d.regs.status .complete = false ∧ d.regs.csumCalc = 0 ∧
    (∀ w ∈ d.events, w.diag = false → w.tag ≠ 0x50) ∧ (∀ w ∈ d.events, w.diag = true → w.tag ≠ 2)

/-- R159(a), which the spec marks as its own inference: a recognised frame with DLEN = 0 always fails the compare, of
CTRL against the main-service byte. -/
def Obligations.DlenZeroMismatches : Prop :=
  ∀ (conf : Params) (b : Nat → Byte) (n : Word),
    let d := decodeTransaction conf b n
    getFlag d.regs.status .recognized = true → d.regs.dlen = 0 →
    getFlag d.regs.status .csumChecked = true ∧ getFlag d.regs.status .csumOk = false ∧
    d.regs.csumCalc = d.regs.ctrl ∧ d.regs.csumDecl = 0xF0

end Statements
end

