-- ==== Sys2Proof/Laws/State.lean ====
section
/-!
SUPPORT. Laws/State.lean: what each named update leaves and sets, one lemma per field, tagged for simp, so that no later
proof unfolds a record update.
-/

namespace Sys2Proof.Machine

-- One thread at a time: elaborated in parallel, this many short lemmas need more memory than the build may use.
set_option Elab.async false

/-! ### State.goto -/

@[simp] theorem State.goto_regs (s : State) (p : Pos) : (s.goto p).regs = s.regs := rfl

@[simp] theorem State.goto_pos (s : State) (p : Pos) : (s.goto p).pos = p := rfl

@[simp] theorem State.goto_pend (s : State) (p : Pos) : (s.goto p).pend = s.pend := rfl

@[simp] theorem State.goto_burst (s : State) (p : Pos) : (s.goto p).burst = s.burst := rfl

@[simp] theorem State.goto_buf (s : State) (p : Pos) : (s.goto p).buf = s.buf := rfl

@[simp] theorem State.goto_params (s : State) (p : Pos) : (s.goto p).params = s.params := rfl

@[simp] theorem State.goto_unstable (s : State) (p : Pos) : (s.goto p).unstable = s.unstable := rfl

@[simp] theorem State.goto_pins (s : State) (p : Pos) : (s.goto p).pins = s.pins := rfl

@[simp] theorem State.goto_script (s : State) (p : Pos) : (s.goto p).script = s.script := rfl

@[simp] theorem State.goto_sink (s : State) (p : Pos) : (s.goto p).sink = s.sink := rfl

@[simp] theorem State.goto_tick (s : State) (p : Pos) : (s.goto p).tick = s.tick := rfl

/-! ### State.setRegs -/

@[simp] theorem State.setRegs_regs (s : State) (r : Regs) : (s.setRegs r).regs = r := rfl

@[simp] theorem State.setRegs_pos (s : State) (r : Regs) : (s.setRegs r).pos = s.pos := rfl

@[simp] theorem State.setRegs_pend (s : State) (r : Regs) : (s.setRegs r).pend = s.pend := rfl

@[simp] theorem State.setRegs_burst (s : State) (r : Regs) : (s.setRegs r).burst = s.burst := rfl

@[simp] theorem State.setRegs_buf (s : State) (r : Regs) : (s.setRegs r).buf = s.buf := rfl

@[simp] theorem State.setRegs_params (s : State) (r : Regs) : (s.setRegs r).params = s.params := rfl

@[simp] theorem State.setRegs_unstable (s : State) (r : Regs) : (s.setRegs r).unstable = s.unstable := rfl

@[simp] theorem State.setRegs_pins (s : State) (r : Regs) : (s.setRegs r).pins = s.pins := rfl

@[simp] theorem State.setRegs_script (s : State) (r : Regs) : (s.setRegs r).script = s.script := rfl

@[simp] theorem State.setRegs_sink (s : State) (r : Regs) : (s.setRegs r).sink = s.sink := rfl

@[simp] theorem State.setRegs_tick (s : State) (r : Regs) : (s.setRegs r).tick = s.tick := rfl

/-! ### State.setStatus -/

@[simp] theorem State.setStatus_regs (s : State) (f : StatusBit) : (s.setStatus f).regs = { s.regs with status := setFlag s.regs.status f } := rfl

@[simp] theorem State.setStatus_pos (s : State) (f : StatusBit) : (s.setStatus f).pos = s.pos := rfl

@[simp] theorem State.setStatus_pend (s : State) (f : StatusBit) : (s.setStatus f).pend = s.pend := rfl

@[simp] theorem State.setStatus_burst (s : State) (f : StatusBit) : (s.setStatus f).burst = s.burst := rfl

@[simp] theorem State.setStatus_buf (s : State) (f : StatusBit) : (s.setStatus f).buf = s.buf := rfl

@[simp] theorem State.setStatus_params (s : State) (f : StatusBit) : (s.setStatus f).params = s.params := rfl

@[simp] theorem State.setStatus_unstable (s : State) (f : StatusBit) : (s.setStatus f).unstable = s.unstable := rfl

@[simp] theorem State.setStatus_pins (s : State) (f : StatusBit) : (s.setStatus f).pins = s.pins := rfl

@[simp] theorem State.setStatus_script (s : State) (f : StatusBit) : (s.setStatus f).script = s.script := rfl

@[simp] theorem State.setStatus_sink (s : State) (f : StatusBit) : (s.setStatus f).sink = s.sink := rfl

@[simp] theorem State.setStatus_tick (s : State) (f : StatusBit) : (s.setStatus f).tick = s.tick := rfl

/-! ### State.accept -/

@[simp] theorem State.accept_regs (s : State) : (s.accept).regs = s.regs := rfl

@[simp] theorem State.accept_pos (s : State) : (s.accept).pos = s.pos := rfl

@[simp] theorem State.accept_pend (s : State) : (s.accept).pend = { s.pend with valid := false } := rfl

@[simp] theorem State.accept_burst (s : State) : (s.accept).burst = s.burst := rfl

@[simp] theorem State.accept_buf (s : State) : (s.accept).buf = s.buf := rfl

@[simp] theorem State.accept_params (s : State) : (s.accept).params = s.params := rfl

@[simp] theorem State.accept_unstable (s : State) : (s.accept).unstable = s.unstable := rfl

@[simp] theorem State.accept_pins (s : State) : (s.accept).pins = s.pins := rfl

@[simp] theorem State.accept_script (s : State) : (s.accept).script = s.script := rfl

@[simp] theorem State.accept_sink (s : State) : (s.accept).sink = s.sink ++ [s.pend.wires] := rfl

@[simp] theorem State.accept_tick (s : State) : (s.accept).tick = s.tick := rfl

/-! ### State.enterDone -/

@[simp] theorem State.enterDone_regs (s : State) : (s.enterDone).regs = { s.regs with status := statusAtDone s.regs.status } := rfl

@[simp] theorem State.enterDone_pos (s : State) : (s.enterDone).pos = .done := rfl

@[simp] theorem State.enterDone_pend (s : State) : (s.enterDone).pend = s.pend := rfl

@[simp] theorem State.enterDone_burst (s : State) : (s.enterDone).burst = s.burst := rfl

@[simp] theorem State.enterDone_buf (s : State) : (s.enterDone).buf = s.buf := rfl

@[simp] theorem State.enterDone_params (s : State) : (s.enterDone).params = s.params := rfl

@[simp] theorem State.enterDone_unstable (s : State) : (s.enterDone).unstable = s.unstable := rfl

@[simp] theorem State.enterDone_pins (s : State) : (s.enterDone).pins = s.pins := rfl

@[simp] theorem State.enterDone_script (s : State) : (s.enterDone).script = s.script := rfl

@[simp] theorem State.enterDone_sink (s : State) : (s.enterDone).sink = s.sink := rfl

@[simp] theorem State.enterDone_tick (s : State) : (s.enterDone).tick = s.tick := rfl

/-! ### State.startTransaction -/

@[simp] theorem State.startTransaction_regs (s : State) : (s.startTransaction).regs = { Regs.reset with len := s.pins.lenIn, status := statusAtStart } := rfl

@[simp] theorem State.startTransaction_pos (s : State) : (s.startTransaction).pos = .scanning := rfl

@[simp] theorem State.startTransaction_pend (s : State) : (s.startTransaction).pend = s.pend := rfl

@[simp] theorem State.startTransaction_burst (s : State) : (s.startTransaction).burst = s.burst := rfl

@[simp] theorem State.startTransaction_buf (s : State) : (s.startTransaction).buf = s.buf := rfl

@[simp] theorem State.startTransaction_params (s : State) : (s.startTransaction).params = s.params := rfl

@[simp] theorem State.startTransaction_unstable (s : State) : (s.startTransaction).unstable = false := rfl

@[simp] theorem State.startTransaction_pins (s : State) : (s.startTransaction).pins = s.pins := rfl

@[simp] theorem State.startTransaction_script (s : State) : (s.startTransaction).script = s.script := rfl

@[simp] theorem State.startTransaction_sink (s : State) : (s.startTransaction).sink = s.sink := rfl

@[simp] theorem State.startTransaction_tick (s : State) : (s.startTransaction).tick = s.tick := rfl

/-! ### State.resetBlock -/

@[simp] theorem State.resetBlock_regs (s : State) : (s.resetBlock).regs = Regs.reset := rfl

@[simp] theorem State.resetBlock_pos (s : State) : (s.resetBlock).pos = .idle := rfl

@[simp] theorem State.resetBlock_pend (s : State) : (s.resetBlock).pend = Pend.reset := rfl

@[simp] theorem State.resetBlock_burst (s : State) : (s.resetBlock).burst = [] := rfl

@[simp] theorem State.resetBlock_buf (s : State) : (s.resetBlock).buf = s.buf := rfl

@[simp] theorem State.resetBlock_params (s : State) : (s.resetBlock).params = s.params := rfl

@[simp] theorem State.resetBlock_unstable (s : State) : (s.resetBlock).unstable = false := rfl

@[simp] theorem State.resetBlock_pins (s : State) : (s.resetBlock).pins = s.pins := rfl

@[simp] theorem State.resetBlock_script (s : State) : (s.resetBlock).script = s.script := rfl

@[simp] theorem State.resetBlock_sink (s : State) : (s.resetBlock).sink = s.sink := rfl

@[simp] theorem State.resetBlock_tick (s : State) : (s.resetBlock).tick = s.tick := rfl

/-! ### State.endBody -/

@[simp] theorem State.endBody_regs (s : State) : (s.endBody).regs = s.regs := rfl

@[simp] theorem State.endBody_pos (s : State) : (s.endBody).pos = .payload .leave := rfl

@[simp] theorem State.endBody_pend (s : State) : (s.endBody).pend = s.pend := rfl

@[simp] theorem State.endBody_burst (s : State) : (s.endBody).burst = s.burst := rfl

@[simp] theorem State.endBody_buf (s : State) : (s.endBody).buf = s.buf := rfl

@[simp] theorem State.endBody_params (s : State) : (s.endBody).params = s.params := rfl

@[simp] theorem State.endBody_unstable (s : State) : (s.endBody).unstable = s.unstable := rfl

@[simp] theorem State.endBody_pins (s : State) : (s.endBody).pins = s.pins := rfl

@[simp] theorem State.endBody_script (s : State) : (s.endBody).script = s.script := rfl

@[simp] theorem State.endBody_sink (s : State) : (s.endBody).sink = s.sink := rfl

@[simp] theorem State.endBody_tick (s : State) : (s.endBody).tick = s.tick := rfl

/-! ### State.present -/

@[simp] theorem State.present_regs (s : State) : (s.present).regs = s.regs := by
  unfold State.present; split <;> rfl

@[simp] theorem State.present_pos (s : State) : (s.present).pos = s.pos := by
  unfold State.present; split <;> rfl

@[simp] theorem State.present_buf (s : State) : (s.present).buf = s.buf := by
  unfold State.present; split <;> rfl

@[simp] theorem State.present_params (s : State) : (s.present).params = s.params := by
  unfold State.present; split <;> rfl

@[simp] theorem State.present_unstable (s : State) : (s.present).unstable = s.unstable := by
  unfold State.present; split <;> rfl

@[simp] theorem State.present_pins (s : State) : (s.present).pins = s.pins := by
  unfold State.present; split <;> rfl

@[simp] theorem State.present_script (s : State) : (s.present).script = s.script := by
  unfold State.present; split <;> rfl

@[simp] theorem State.present_sink (s : State) : (s.present).sink = s.sink := by
  unfold State.present; split <;> rfl

@[simp] theorem State.present_tick (s : State) : (s.present).tick = s.tick := by
  unfold State.present; split <;> rfl

/-! ### State.emit -/

@[simp] theorem State.emit_regs (s : State) (es : List Wires) : (s.emit es).regs = s.regs := by
  simp [State.emit]

@[simp] theorem State.emit_pos (s : State) (es : List Wires) : (s.emit es).pos = s.pos := by
  simp [State.emit]

@[simp] theorem State.emit_buf (s : State) (es : List Wires) : (s.emit es).buf = s.buf := by
  simp [State.emit]

@[simp] theorem State.emit_params (s : State) (es : List Wires) : (s.emit es).params = s.params := by
  simp [State.emit]

@[simp] theorem State.emit_unstable (s : State) (es : List Wires) : (s.emit es).unstable = s.unstable := by
  simp [State.emit]

@[simp] theorem State.emit_pins (s : State) (es : List Wires) : (s.emit es).pins = s.pins := by
  simp [State.emit]

@[simp] theorem State.emit_script (s : State) (es : List Wires) : (s.emit es).script = s.script := by
  simp [State.emit]

@[simp] theorem State.emit_sink (s : State) (es : List Wires) : (s.emit es).sink = s.sink := by
  simp [State.emit]

@[simp] theorem State.emit_tick (s : State) (es : List Wires) : (s.emit es).tick = s.tick := by
  simp [State.emit]

/-! ### State.hostStore -/

@[simp] theorem State.hostStore_regs (s : State) : (s.hostStore).regs = s.regs := by
  unfold State.hostStore; split <;> rfl

@[simp] theorem State.hostStore_pos (s : State) : (s.hostStore).pos = s.pos := by
  unfold State.hostStore; split <;> rfl

@[simp] theorem State.hostStore_pend (s : State) : (s.hostStore).pend = s.pend := by
  unfold State.hostStore; split <;> rfl

@[simp] theorem State.hostStore_burst (s : State) : (s.hostStore).burst = s.burst := by
  unfold State.hostStore; split <;> rfl

@[simp] theorem State.hostStore_params (s : State) : (s.hostStore).params = s.params := by
  unfold State.hostStore; split <;> rfl

@[simp] theorem State.hostStore_pins (s : State) : (s.hostStore).pins = s.pins := by
  unfold State.hostStore; split <;> rfl

@[simp] theorem State.hostStore_script (s : State) : (s.hostStore).script = s.script := by
  unfold State.hostStore; split <;> rfl

@[simp] theorem State.hostStore_sink (s : State) : (s.hostStore).sink = s.sink := by
  unfold State.hostStore; split <;> rfl

@[simp] theorem State.hostStore_tick (s : State) : (s.hostStore).tick = s.tick := by
  unfold State.hostStore; split <;> rfl

/-! ### State.elapse -/

@[simp] theorem State.elapse_regs (s : State) : (s.elapse).regs = s.regs := by
  unfold State.elapse; split <;> rfl

@[simp] theorem State.elapse_pos (s : State) : (s.elapse).pos = s.pos := by
  unfold State.elapse; split <;> rfl

@[simp] theorem State.elapse_pend (s : State) : (s.elapse).pend = s.pend := by
  unfold State.elapse; split <;> rfl

@[simp] theorem State.elapse_burst (s : State) : (s.elapse).burst = s.burst := by
  unfold State.elapse; split <;> rfl

@[simp] theorem State.elapse_buf (s : State) : (s.elapse).buf = s.buf := by
  unfold State.elapse; split <;> rfl

@[simp] theorem State.elapse_params (s : State) : (s.elapse).params = s.params := by
  unfold State.elapse; split <;> rfl

@[simp] theorem State.elapse_unstable (s : State) : (s.elapse).unstable = s.unstable := by
  unfold State.elapse; split <;> rfl

@[simp] theorem State.elapse_sink (s : State) : (s.elapse).sink = s.sink := by
  unfold State.elapse; split <;> rfl

@[simp] theorem State.elapse_tick (s : State) : (s.elapse).tick = s.tick + 1 := by
  unfold State.elapse; split <;> rfl

/-! ### State.raise -/

@[simp] theorem State.raise_pos (s : State) (c : Condition) : (s.raise c).pos = s.pos := by
  cases c <;> simp [State.raise, Condition.bit]

@[simp] theorem State.raise_buf (s : State) (c : Condition) : (s.raise c).buf = s.buf := by
  cases c <;> simp [State.raise, Condition.bit]

@[simp] theorem State.raise_params (s : State) (c : Condition) : (s.raise c).params = s.params := by
  cases c <;> simp [State.raise, Condition.bit]

@[simp] theorem State.raise_unstable (s : State) (c : Condition) : (s.raise c).unstable = s.unstable := by
  cases c <;> simp [State.raise, Condition.bit]

@[simp] theorem State.raise_pins (s : State) (c : Condition) : (s.raise c).pins = s.pins := by
  cases c <;> simp [State.raise, Condition.bit]

@[simp] theorem State.raise_script (s : State) (c : Condition) : (s.raise c).script = s.script := by
  cases c <;> simp [State.raise, Condition.bit]

@[simp] theorem State.raise_sink (s : State) (c : Condition) : (s.raise c).sink = s.sink := by
  cases c <;> simp [State.raise, Condition.bit]

@[simp] theorem State.raise_tick (s : State) (c : Condition) : (s.raise c).tick = s.tick := by
  cases c <;> simp [State.raise, Condition.bit]

/-- A step in which the host stores nothing leaves the state as it is. -/
theorem State.hostStore_of_none (s : State) (h : s.pins.store = none) : s.hostStore = s := by
  simp only [State.hostStore, h]

/-- At the end of the script the ports keep their levels and the latency oracle lets go (R279, assumption 5). -/
theorem State.elapse_pins_of_end (s : State) (h : s.script = []) : s.elapse.pins = { s.pins with wait := false } := by
  simp only [State.elapse, h]

theorem State.elapse_script_of_end (s : State) (h : s.script = []) : s.elapse.script = [] := by
  simp only [State.elapse, h]

/-- Before its end the script gives the next input levels. -/
theorem State.elapse_pins_of_cons (s : State) (p : Pins) (ps : List Pins) (h : s.script = p :: ps) :
    s.elapse.pins = p := by
  simp only [State.elapse, h]

theorem State.elapse_script_of_cons (s : State) (p : Pins) (ps : List Pins) (h : s.script = p :: ps) :
    s.elapse.script = ps := by
  simp only [State.elapse, h]

/-- The registers after a condition: its STATUS bit is set where it has one (60_exceptions.md R300). -/
theorem State.raise_regs (s : State) (c : Condition) :
    (s.raise c).regs = match c.bit with
      | some f => { s.regs with status := setFlag s.regs.status f }
      | none => s.regs := by
  cases c <;> simp [State.raise, Condition.bit]

@[simp] theorem State.emit_nil_of_free (s : State) (h : s.burst = []) : s.emit [] = s := by
  simp only [State.emit, List.append_nil]
  unfold State.present
  cases s
  subst h
  split <;> simp_all

@[simp] theorem State.raise_truncated_of_empty (s : State) (h : s.burst = []) :
    s.raise .truncated = s.setStatus .trunc := by
  simp [State.raise, Condition.bit, Condition.diag, h]

@[simp] theorem State.raise_unknown_of_empty (s : State) (h : s.burst = []) :
    s.raise .unknownSubService = s.setStatus .unknownSub := by
  simp [State.raise, Condition.bit, Condition.diag, h]

@[simp] theorem State.raise_notRecognized_of_empty (s : State) (h : s.burst = []) : s.raise .notRecognized = s := by
  simp [State.raise, Condition.bit, Condition.diag, h]

/-- Emitting at least one event through an empty port loads PEND with the first and leaves the others waiting (R267). -/
theorem State.emit_cons_of_free (s : State) (e : Wires) (es : List Wires) (hp : s.pend.valid = false)
    (hb : s.burst = []) :
    s.emit (e :: es) = { s with pend := { valid := true, wires := e }, burst := es } := by
  simp only [State.emit, hb, List.nil_append]
  unfold State.present
  simp [hp]

/-! ### What the buffer reads and the addresses are made of does not change with the position or the port -/

@[simp] theorem State.goto_fits (s : State) (p : Pos) (a n : Nat) : (s.goto p).fits a n = s.fits a n := rfl

@[simp] theorem State.goto_byteAt (s : State) (p : Pos) (a : Nat) : (s.goto p).byteAt a = s.byteAt a := rfl

@[simp] theorem State.goto_byteAgain (s : State) (p : Pos) (a : Nat) : (s.goto p).byteAgain a = s.byteAgain a := rfl

@[simp] theorem State.goto_readByte (s : State) (p : Pos) (a : Nat) : (s.goto p).readByte a = s.readByte a := rfl

@[simp] theorem State.goto_readAgain (s : State) (p : Pos) (a : Nat) : (s.goto p).readAgain a = s.readAgain a := rfl

@[simp] theorem State.goto_frameStart (s : State) (p : Pos) : (s.goto p).frameStart = s.frameStart := rfl

@[simp] theorem State.goto_payloadStart (s : State) (p : Pos) : (s.goto p).payloadStart = s.payloadStart := rfl

@[simp] theorem State.goto_trailerOffset (s : State) (p : Pos) : (s.goto p).trailerOffset = s.trailerOffset := rfl

@[simp] theorem State.emit_fits (s : State) (es : List Wires) (a n : Nat) : (s.emit es).fits a n = s.fits a n := by
  simp [State.fits]

@[simp] theorem State.emit_byteAt (s : State) (es : List Wires) (a : Nat) : (s.emit es).byteAt a = s.byteAt a := by
  simp [State.byteAt]

@[simp] theorem State.emit_byteAgain (s : State) (es : List Wires) (a : Nat) : (s.emit es).byteAgain a = s.byteAgain a := by
  simp [State.byteAgain]

@[simp] theorem State.emit_readByte (s : State) (es : List Wires) (a : Nat) : (s.emit es).readByte a = s.readByte a := by
  simp [State.readByte, State.fits, State.byteAt]

@[simp] theorem State.emit_readAgain (s : State) (es : List Wires) (a : Nat) : (s.emit es).readAgain a = s.readAgain a := by
  simp [State.readAgain, State.fits, State.byteAgain]

@[simp] theorem State.emit_frameStart (s : State) (es : List Wires) : (s.emit es).frameStart = s.frameStart := by
  simp [State.frameStart]

@[simp] theorem State.emit_payloadStart (s : State) (es : List Wires) : (s.emit es).payloadStart = s.payloadStart := by
  simp [State.payloadStart, State.frameStart]

@[simp] theorem State.emit_trailerOffset (s : State) (es : List Wires) : (s.emit es).trailerOffset = s.trailerOffset := by
  simp [State.trailerOffset]

@[simp] theorem State.setStatus_fits (s : State) (f : StatusBit) (a n : Nat) : (s.setStatus f).fits a n = s.fits a n := rfl

@[simp] theorem State.setStatus_byteAt (s : State) (f : StatusBit) (a : Nat) : (s.setStatus f).byteAt a = s.byteAt a := rfl

@[simp] theorem State.setStatus_byteAgain (s : State) (f : StatusBit) (a : Nat) : (s.setStatus f).byteAgain a = s.byteAgain a := rfl

@[simp] theorem State.setStatus_readByte (s : State) (f : StatusBit) (a : Nat) : (s.setStatus f).readByte a = s.readByte a := rfl

@[simp] theorem State.setStatus_readAgain (s : State) (f : StatusBit) (a : Nat) : (s.setStatus f).readAgain a = s.readAgain a := rfl

@[simp] theorem State.setStatus_frameStart (s : State) (f : StatusBit) : (s.setStatus f).frameStart = s.frameStart := rfl

@[simp] theorem State.setStatus_payloadStart (s : State) (f : StatusBit) : (s.setStatus f).payloadStart = s.payloadStart := rfl

@[simp] theorem State.setStatus_trailerOffset (s : State) (f : StatusBit) : (s.setStatus f).trailerOffset = s.trailerOffset := rfl

@[simp] theorem State.raise_fits (s : State) (c : Condition) (a n : Nat) : (s.raise c).fits a n = s.fits a n := by
  cases c <;> simp [State.fits, State.raise_regs, Condition.bit]

@[simp] theorem State.raise_byteAt (s : State) (c : Condition) (a : Nat) : (s.raise c).byteAt a = s.byteAt a := by
  cases c <;> simp [State.byteAt]

@[simp] theorem State.raise_byteAgain (s : State) (c : Condition) (a : Nat) : (s.raise c).byteAgain a = s.byteAgain a := by
  cases c <;> simp [State.byteAgain]

@[simp] theorem State.raise_readByte (s : State) (c : Condition) (a : Nat) : (s.raise c).readByte a = s.readByte a := by
  cases c <;> simp [State.readByte, State.raise_regs, Condition.bit, State.fits, State.byteAt]

@[simp] theorem State.raise_readAgain (s : State) (c : Condition) (a : Nat) : (s.raise c).readAgain a = s.readAgain a := by
  cases c <;> simp [State.readAgain, State.raise_regs, Condition.bit, State.fits, State.byteAgain]

@[simp] theorem State.raise_frameStart (s : State) (c : Condition) : (s.raise c).frameStart = s.frameStart := by
  cases c <;> simp [State.frameStart, State.raise_regs, Condition.bit]

@[simp] theorem State.raise_payloadStart (s : State) (c : Condition) : (s.raise c).payloadStart = s.payloadStart := by
  cases c <;> simp [State.payloadStart, State.raise_regs, Condition.bit, State.frameStart]

@[simp] theorem State.raise_trailerOffset (s : State) (c : Condition) : (s.raise c).trailerOffset = s.trailerOffset := by
  cases c <;> simp [State.trailerOffset, State.raise_regs, Condition.bit]

@[simp] theorem State.setRegs_fits (s : State) (r : Regs) (a n : Nat) (h : r.len = s.regs.len) : (s.setRegs r).fits a n = s.fits a n := by
  simp [State.fits, h]

@[simp] theorem State.setRegs_byteAt (s : State) (r : Regs) (a : Nat) : (s.setRegs r).byteAt a = s.byteAt a := rfl

@[simp] theorem State.setRegs_byteAgain (s : State) (r : Regs) (a : Nat) : (s.setRegs r).byteAgain a = s.byteAgain a := rfl

@[simp] theorem State.setRegs_readByte (s : State) (r : Regs) (a : Nat) (h : r.len = s.regs.len) : (s.setRegs r).readByte a = s.readByte a := by
  have hf := State.setRegs_fits s r a 1 h
  unfold State.readByte
  rw [hf]
  rfl

@[simp] theorem State.setRegs_readAgain (s : State) (r : Regs) (a : Nat) (h : r.len = s.regs.len) : (s.setRegs r).readAgain a = s.readAgain a := by
  have hf := State.setRegs_fits s r a 1 h
  unfold State.readAgain
  rw [hf]
  rfl

@[simp] theorem State.setRegs_frameStart (s : State) (r : Regs) (h : r.startOff = s.regs.startOff) : (s.setRegs r).frameStart = s.frameStart := by
  simp [State.frameStart, State.frameStart, h]

@[simp] theorem State.setRegs_payloadStart (s : State) (r : Regs) (h : r.startOff = s.regs.startOff) : (s.setRegs r).payloadStart = s.payloadStart := by
  simp [State.payloadStart, State.frameStart, h]

end Sys2Proof.Machine
end

