-- ==== Sys2Proof/Laws/Ops.lean ====
section
/-!
SUPPORT. Laws/Ops.lean: one lemma per shared operation that says once what it can do: the guard and the reads, STATUS bits,
the event port.
-/

namespace Sys2Proof.Machine

/-! ### The guard and the reads -/

theorem State.fits_iff (s : State) (a n : Nat) : s.fits a n = true ↔ a + n ≤ s.regs.len.toNat := by
  simp [State.fits]

theorem State.fits_false_iff (s : State) (a n : Nat) : s.fits a n = false ↔ s.regs.len.toNat < a + n := by
  simp [State.fits]

theorem State.not_fits {s : State} {a n : Nat} (h : ¬ s.fits a n = true) : s.regs.len.toNat < a + n := by
  rw [State.fits_iff] at h; omega

/-- A guarded read answers the buffer's byte (20_memory.md R62). -/
theorem State.readByte_of_lt (s : State) (a : Nat) (h : a + 1 ≤ s.regs.len.toNat) :
    s.readByte a = .ok (s.byteAt a) := by
  simp only [State.readByte, (State.fits_iff s a 1).2 h, if_true]

/-- The second read of an address in one unit answers the buffer's byte as it is then (R62, R334). -/
theorem State.readAgain_of_lt (s : State) (a : Nat) (h : a + 1 ≤ s.regs.len.toNat) :
    s.readAgain a = .ok (s.byteAgain a) := by
  simp only [State.readAgain, (State.fits_iff s a 1).2 h, if_true]

/-- Where the host leaves the buffer alone and a stored byte backs the address, reading it again answers the same
(R334, R335). -/
theorem State.byteAgain_of_backed (s : State) (a : Nat) (h : s.unstable = false)
    (hb : (Memory.read s.buf a).isSome = true) : s.byteAgain a = s.byteAt a := by
  obtain ⟨b, e⟩ := Option.isSome_iff_exists.1 hb
  simp [State.byteAgain, State.byteAt, h, e]

/-- What a read can answer: the byte at an address below LEN, or the fault. -/
theorem State.readByte_eq_ok (s : State) (a : Nat) (b : Byte) :
    s.readByte a = .ok b ↔ a + 1 ≤ s.regs.len.toNat ∧ b = s.byteAt a := by
  simp only [State.readByte]
  by_cases h : s.fits a 1 = true
  · simp only [h, if_true, Except.ok.injEq]
    exact ⟨fun e => ⟨(State.fits_iff s a 1).1 h, e.symm⟩, fun e => e.2.symm⟩
  · simp only [h]
    constructor
    · intro e; exact absurd e (by simp)
    · intro e; exact absurd ((State.fits_iff s a 1).2 e.1) h

theorem beWord_eq (b : Nat → Byte) (a : Nat) :
    beWord b a = (b a).setWidth 16 * 256 + (b (a + 1)).setWidth 16 := by
  unfold beWord
  have h : ∀ x y : Byte, (x ++ y : BitVec (8 + 8)) = x.setWidth 16 * 256 + y.setWidth 16 := by
    intro x y
    apply BitVec.eq_of_toNat_eq
    have hx := x.isLt
    have hy := y.isLt
    simp only [BitVec.toNat_append, BitVec.toNat_add, BitVec.toNat_mul, BitVec.toNat_setWidth]
    rw [Nat.shiftLeft_eq, ← Nat.mul_comm (2 ^ 8), ← Nat.two_pow_add_eq_or_of_lt hy]
    simp
    omega
  exact h _ _

/-- A read of one byte as an integer field (30_encoding.md R99). -/
theorem State.memRead_one (s : State) (a : Nat) (h : a + 1 ≤ s.regs.len.toNat) :
    s.memRead a 1 = .ok ((s.byteAt a).setWidth 16) := by
  simp [State.memRead, State.memReadFrom, State.readByte_of_lt s a h]

/-- A read of two bytes is big-endian (20_memory.md R63). -/
theorem State.memRead_two (s : State) (a : Nat) (h : a + 2 ≤ s.regs.len.toNat) :
    s.memRead a 2 = .ok (beWord s.byteAt a) := by
  simp [State.memRead, State.memReadFrom, State.readByte_of_lt s a (by omega),
    State.readByte_of_lt s (a + 1) (by omega), beWord_eq]

/-- An integer field of 1 or 2 bytes. -/
theorem State.memRead_field (s : State) (a w : Nat) (h : a + w ≤ s.regs.len.toNat) (hw : w = 1 ∨ w = 2) :
    s.memRead a w = .ok (fieldValue s.byteAt a w) := by
  rcases hw with rfl | rfl
  · simpa [fieldValue] using State.memRead_one s a h
  · simpa [fieldValue] using State.memRead_two s a h

/-- What a read of 1 or 2 bytes can answer. -/
theorem State.memRead_eq_ok (s : State) (a w : Nat) (v : Word) (hw : w = 1 ∨ w = 2) :
    s.memRead a w = .ok v ↔ a + w ≤ s.regs.len.toNat ∧ v = fieldValue s.byteAt a w := by
  by_cases h : a + w ≤ s.regs.len.toNat
  · simp [State.memRead_field s a w h hw, h, eq_comm]
  · simp only [h, false_and, iff_false]
    intro e
    rcases hw with rfl | rfl
    · simp only [State.memRead, State.memReadFrom] at e
      split at e
      · rename_i hb; exact absurd ((State.readByte_eq_ok _ _ _).1 hb).1 h
      · exact absurd e (by simp)
    · simp only [State.memRead, State.memReadFrom] at e
      split at e
      · split at e
        · rename_i hb; have := ((State.readByte_eq_ok _ _ _).1 hb).1; omega
        · exact absurd e (by simp)
      · exact absurd e (by simp)

theorem State.guardedTest_iff (s : State) (a : Nat) (p : Byte → Bool) :
    s.guardedTest a p = true ↔ a + 1 ≤ s.regs.len.toNat ∧ p (s.byteAt a) = true := by
  simp [State.guardedTest, State.fits_iff]

/-- The checksum engine over a range inside the buffer adds the bytes to its accumulator (40_checksum.md R120, R123). -/
theorem State.sumFrom_eq (s : State) (n a : Nat) (acc : Byte) (h : a + n ≤ s.regs.len.toNat) :
    s.sumFrom a n acc = .ok (acc + sumOf s.byteAt a n) := by
  induction n generalizing a acc with
  | zero => simp [State.sumFrom, sumOf]
  | succ n ih =>
    simp only [State.sumFrom, State.readByte_of_lt s a (by omega), sumOf]
    rw [ih (a + 1) _ (by omega), BitVec.add_assoc]

/-- CHECKSUM inside the buffer answers the sum of its range (40_checksum.md R120). -/
theorem State.checksum_eq (s : State) (lo hi : Nat) (h : lo ≤ hi) (hh : hi ≤ s.regs.len.toNat) :
    s.checksum lo hi = .ok (sumOf s.byteAt lo (hi - lo)) := by
  unfold State.checksum
  rw [State.sumFrom_eq s (hi - lo) lo 0 (by omega)]
  simp

/-! ### STATUS bits -/

@[simp] theorem getFlag_setFlag_same (w : BitVec 16) (f : StatusBit) : getFlag (setFlag w f) f = true := by
  cases f <;> simp [getFlag, setFlag, StatusBit.mask, StatusBit.index]

theorem StatusBit.index_injective {f g : StatusBit} (h : f.index = g.index) : f = g := by
  cases f <;> cases g <;> simp_all [StatusBit.index]

theorem getFlag_setFlag (w : BitVec 16) (f g : StatusBit) :
    getFlag (setFlag w f) g = (getFlag w g || decide (f = g)) := by
  simp only [getFlag, setFlag, BitVec.getLsbD_or]
  congr 1
  cases f <;> cases g <;> decide

theorem getFlag_setFlag_other (w : BitVec 16) (f g : StatusBit) (h : f ≠ g) :
    getFlag (setFlag w f) g = getFlag w g := by
  simp [getFlag_setFlag, h]

theorem getFlag_clearFlag (w : BitVec 16) (f g : StatusBit) :
    getFlag (clearFlag w f) g = (getFlag w g && decide (f ≠ g)) := by
  simp only [getFlag, clearFlag, BitVec.getLsbD_and]
  congr 1
  cases f <;> cases g <;> decide

theorem getFlag_setFlagIf (c : Bool) (w : BitVec 16) (f g : StatusBit) :
    getFlag (setFlagIf c w f) g = (getFlag w g || (c && decide (f = g))) := by
  cases c <;> simp [setFlagIf, getFlag_setFlag]

theorem getFlag_statusAtDone (w : BitVec 16) (g : StatusBit) :
    getFlag (statusAtDone w) g = ((getFlag w g || decide (g = .done)) && decide (g ≠ .busy)) := by
  simp only [statusAtDone, getFlag_clearFlag, getFlag_setFlag]
  cases g <;> simp

theorem getFlag_statusAtStart (g : StatusBit) : getFlag statusAtStart g = decide (g = .busy) := by
  cases g <;> decide

theorem getFlag_zero (g : StatusBit) : getFlag 0 g = false := by
  cases g <;> decide

/-- The reserved bits 15:13 are untouched by setting a named bit (R40). -/
theorem reserved_setFlag (w : BitVec 16) (f : StatusBit) : setFlag w f &&& 0xE000 = w &&& 0xE000 := by
  have h : f.mask &&& 0xE000 = 0 := by cases f <;> decide
  have h' : setFlag w f &&& 0xE000#16 = (w &&& 0xE000#16) ||| (f.mask &&& 0xE000#16) := by
    apply BitVec.eq_of_getLsbD_eq
    intro i hi
    simp only [setFlag, BitVec.getLsbD_and, BitVec.getLsbD_or, Bool.and_or_distrib_right]
  exact h'.trans (by rw [show f.mask &&& 0xE000#16 = 0 from h]; simp)

theorem reserved_setFlagIf (c : Bool) (w : BitVec 16) (f : StatusBit) :
    setFlagIf c w f &&& 0xE000 = w &&& 0xE000 := by
  cases c
  · rfl
  · exact reserved_setFlag w f

theorem reserved_clearFlag (w : BitVec 16) (f : StatusBit) (h : w &&& 0xE000 = 0) : clearFlag w f &&& 0xE000 = 0 := by
  have h' : clearFlag w f &&& 0xE000#16 = (w &&& 0xE000#16) &&& ~~~ f.mask := by
    apply BitVec.eq_of_getLsbD_eq
    intro i hi
    simp only [clearFlag, BitVec.getLsbD_and, Bool.and_assoc, Bool.and_comm, Bool.and_left_comm]
  exact h'.trans (by rw [show w &&& 0xE000#16 = 0 from h]; simp)

theorem reserved_statusAtDone (w : BitVec 16) (h : w &&& 0xE000 = 0) : statusAtDone w &&& 0xE000 = 0 :=
  reserved_clearFlag _ _ ((reserved_setFlag w .done).trans h)

/-! ### The event port -/

theorem State.waiting_present (s : State) : s.present.waiting = s.waiting := by
  unfold State.present
  split
  · simp_all [State.waiting]
  · rfl

theorem State.trace_present (s : State) : s.present.trace = s.trace := by
  simp [State.trace, State.waiting_present]

/-- Emitting appends to what waits: no event is lost or overtaken (R267). -/
theorem State.waiting_emit (s : State) (es : List Wires) : (s.emit es).waiting = s.waiting ++ es := by
  simp only [State.emit, State.waiting_present]
  simp [State.waiting]

theorem State.trace_emit (s : State) (es : List Wires) : (s.emit es).trace = s.trace ++ es := by
  simp [State.trace, State.waiting_emit]

/-- Acceptance moves the event from PEND to the sink (R267). -/
theorem State.trace_accept (s : State) (h : s.pend.valid = true) : s.accept.trace = s.trace := by
  simp [State.trace, State.waiting, State.accept, h]

theorem State.waiting_of_free (s : State) (h : s.free) : s.waiting = [] := by
  simp [State.waiting, h.1, h.2]

theorem State.trace_of_free (s : State) (h : s.free) : s.trace = s.sink := by
  simp [State.trace, State.waiting_of_free s h]

theorem State.free_of_waiting (s : State) (h : s.waiting = []) : s.free := by
  simp only [State.waiting, List.append_eq_nil_iff] at h
  refine ⟨?_, h.2⟩
  cases hv : s.pend.valid
  · rfl
  · simp [hv] at h

@[simp] theorem State.waiting_goto (s : State) (p : Pos) : (s.goto p).waiting = s.waiting := rfl
@[simp] theorem State.waiting_setRegs (s : State) (r : Regs) : (s.setRegs r).waiting = s.waiting := rfl
@[simp] theorem State.waiting_setStatus (s : State) (f : StatusBit) : (s.setStatus f).waiting = s.waiting := rfl
@[simp] theorem State.waiting_enterDone (s : State) : s.enterDone.waiting = s.waiting := rfl
@[simp] theorem State.waiting_endBody (s : State) : s.endBody.waiting = s.waiting := rfl

@[simp] theorem State.waiting_elapse (s : State) : s.elapse.waiting = s.waiting := by
  simp [State.waiting]

@[simp] theorem State.waiting_hostStore (s : State) : s.hostStore.waiting = s.waiting := by
  simp [State.waiting]

@[simp] theorem State.trace_elapse (s : State) : s.elapse.trace = s.trace := by
  simp [State.trace]

@[simp] theorem State.trace_hostStore (s : State) : s.hostStore.trace = s.trace := by
  simp [State.trace]

/-- A condition emits its diagnostic, if it has one (60_exceptions.md R300). -/
theorem State.waiting_raise (s : State) (c : Condition) : (s.raise c).waiting = s.waiting ++ c.diag := by
  cases c <;> simp [State.raise, Condition.bit, State.waiting_emit]

@[simp] theorem State.waiting_truncateBody (s : State) : s.truncateBody.waiting = s.waiting := by
  simp [State.truncateBody, State.waiting_raise, Condition.diag]

/-- On an empty port emitting is offering: the first event stands in PEND, the others behind it (R267). -/
theorem State.emit_of_free (s : State) (es : List Wires) (h : s.free) : s.emit es = s.offering es := by
  obtain ⟨h1, h2⟩ := h
  cases es with
  | nil => rcases s with ⟨_, _, ⟨_, _⟩, _, _, _, _, _, _, _, _⟩; subst h1 h2; rfl
  | cons e es => rcases s with ⟨_, _, ⟨_, _⟩, _, _, _, _, _, _, _, _⟩; subst h1 h2; rfl

/-- A condition without a status bit only emits its diagnostic (R300). -/
theorem State.raise_of_free (s : State) (c : Condition) (h : s.free) :
    s.raise c = ((c.bit.elim s (fun f => s.setStatus f)).offering c.diag) := by
  cases c <;> exact State.emit_of_free _ _ h

theorem State.drain_free (s : State) : s.drain.free := ⟨rfl, rfl⟩

theorem State.drain_of_free (s : State) (h : s.free) : s.drain = s := by
  obtain ⟨h1, h2⟩ := h
  rcases s with ⟨_, _, ⟨v, w⟩, b, _, _, _, _, _, _, _⟩
  subst h1 h2
  simp [State.drain, State.trace, State.waiting]

end Sys2Proof.Machine
end

