-- ==== Sys2Proof/Laws/Body.lean ====
section
/-!
SUPPORT. Laws/Body.lean: what one call of a meaning can do: it is the unit of the body that the mux's outputs for the
instruction's code configure, at the position the state holds.
-/

namespace Sys2Proof.Machine

/-- Every meaning is the body that the mux configures for the instruction's code (43_dispatch.md R170, R171). -/
theorem exec_eq (i : Instr) (s : State) : exec i s = bodyUnit (dispatch i.code) s := by
  cases i <;> rfl

/-- The mux selects the kind of the instruction whose code it is given. -/
theorem dispatch_kind (i : Instr) : (dispatch i.code).kind = kindTable i := by
  cases i <;> rfl

/-- A meaning called in the payload phase is one unit at that position. -/
theorem exec_at (i : Instr) (s : State) (p : BodyPos) (h : s.pos = .payload p) :
    exec i s = outcomeOf (bodyAt (dispatch i.code) p s) := by
  rw [exec_eq, bodyUnit, h]

/-- A meaning that answers a next state was called in the payload phase and its unit answered it. -/
theorem exec_next (i : Instr) (s t : State) (h : exec i s = .next t) :
    ∃ p, s.pos = .payload p ∧ bodyAt (dispatch i.code) p s = .ok t := by
  rw [exec_eq, bodyUnit] at h
  split at h
  · rename_i p hp
    refine ⟨p, hp, ?_⟩
    simp only [outcomeOf] at h
    split at h
    · rename_i u hu; rw [hu]; simp_all
    · exact absurd h (by simp)
  · exact absurd h (by simp)

/-- The outcome of a unit is a next state exactly when the unit answers it. -/
theorem outcomeOf_next (r : Except Fault State) (t : State) : outcomeOf r = .next t ↔ r = .ok t := by
  cases r <;> simp [outcomeOf]

/-! ### Running a body -/

/-- What a read returns depends on the surroundings alone. -/
theorem SameSurroundings.byteAt {s t : State} (h : SameSurroundings s t) (a : Nat) : t.byteAt a = s.byteAt a := by
  simp only [State.byteAt, h.buf, h.unstable, h.tick]

/-- The same for a second read. -/
theorem SameSurroundings.byteAgain {s t : State} (h : SameSurroundings s t) (a : Nat) :
    t.byteAgain a = s.byteAgain a := by
  simp only [State.byteAgain, h.buf, h.unstable, h.tick]

theorem SameSurroundings.refl (s : State) : SameSurroundings s s := ⟨rfl, rfl, rfl, rfl, rfl, rfl⟩

theorem SameSurroundings.trans {s t u : State} (h : SameSurroundings s t) (k : SameSurroundings t u) :
    SameSurroundings s u :=
  ⟨k.buf.trans h.buf, k.params.trans h.params, k.unstable.trans h.unstable, k.pins.trans h.pins, k.script.trans h.script,
    k.tick.trans h.tick⟩

theorem runBody_add (i : Instr) (m n : Nat) (s t : State) (h : runBody i m s = .next t) :
    runBody i (m + n) s = runBody i n t := by
  induction m generalizing s with
  | zero => simp only [runBody, Host.Outcome.next.injEq] at h; simp [h]
  | succ m ih =>
    rw [Nat.add_right_comm]
    simp only [runBody] at h ⊢
    split at h
    · exact ih _ h
    · exact absurd h (by simp)
    · exact absurd h (by simp)

theorem bodyReaches_refl (i : Instr) (s : State) : bodyReaches i s s := ⟨0, rfl⟩

theorem bodyReaches_trans {i : Instr} {s t u : State} (h : bodyReaches i s t) (k : bodyReaches i t u) :
    bodyReaches i s u := by
  obtain ⟨m, hm⟩ := h
  obtain ⟨n, hn⟩ := k
  exact ⟨m + n, (runBody_add i m n s t hm).trans hn⟩

/-- Two pieces of a body, one after the other. -/
theorem BodyRan.trans {s t u : State} {p q : BodyPos} {g k : Regs} {es fs : List Wires} (h : BodyRan s t p g es)
    (r : BodyRan t u q k fs) : BodyRan s u q k (es ++ fs) :=
  ⟨r.pos, r.regs, r.port, by rw [r.sink, h.sink, List.append_assoc], h.around.trans r.around⟩

/-- One call that offers events, and the sink accepting them. -/
theorem bodyRan_of_exec {i : Instr} {s : State} {p : BodyPos} {g : Regs} {es : List Wires} (hf : s.free)
    (h : exec i s = .next (State.offering { s with pos := .payload p, regs := g } es)) :
    ∃ t, bodyReaches i s t ∧ BodyRan s t p g es := by
  refine ⟨_, ⟨1, by rw [runBody, h]; rfl⟩, ?_⟩
  cases es with
  | nil =>
    exact ⟨rfl, rfl, State.drain_free _, by simp [State.drain, State.offering, State.trace, State.waiting, hf.1, hf.2],
      ⟨rfl, rfl, rfl, rfl, rfl, rfl⟩⟩
  | cons e es =>
    exact ⟨rfl, rfl, State.drain_free _, by simp [State.drain, State.offering, State.trace, State.waiting],
      ⟨rfl, rfl, rfl, rfl, rfl, rfl⟩⟩

/-- The next piece of a body, from what the pieces so far have left. -/
theorem bodyRan_then {i : Instr} {s : State} {p q : BodyPos} {g k : Regs} {es fs : List Wires}
    (h : ∃ t, bodyReaches i s t ∧ BodyRan s t p g es)
    (r : ∀ t, BodyRan s t p g es → ∃ u, bodyReaches i t u ∧ BodyRan t u q k fs) :
    ∃ u, bodyReaches i s u ∧ BodyRan s u q k (es ++ fs) := by
  obtain ⟨t, ht, hr⟩ := h
  obtain ⟨u, hu, hq⟩ := r t hr
  exact ⟨u, bodyReaches_trans ht hu, hr.trans hq⟩

end Sys2Proof.Machine
end

