-- ==== Sys2Proof/Laws/Memory.lean ====
section
/-!
SUPPORT. Laws/Memory.lean: reading after writing, and the canonical form of the buffer, which every operation on it keeps.
-/

namespace Sys2Proof.Machine

-- One thread at a time: elaborated in parallel, this many short lemmas need more memory than the build may use.
set_option Elab.async false

/-- A byte just written reads as written. -/
@[simp] theorem Memory.read_write_same (m : Memory) (a : Nat) (b : Byte) :
    Memory.read (Memory.write m a b) a = some b := by
  induction m with
  | nil => simp [Memory.write, Memory.read]
  | cons c m ih =>
    obtain ⟨a', b'⟩ := c
    simp only [Memory.write]
    split
    · simp [Memory.read]
    · split
      · simp [Memory.read]
      · rename_i h; simp [Memory.read, h, ih]

/-- A write leaves every other address alone. -/
theorem Memory.read_write_other (m : Memory) (a a2 : Nat) (b : Byte) (h : a2 ≠ a) :
    Memory.read (Memory.write m a b) a2 = Memory.read m a2 := by
  induction m with
  | nil => simp [Memory.write, Memory.read, h]
  | cons c m ih =>
    obtain ⟨a', b'⟩ := c
    simp only [Memory.write]
    split
    · simp [Memory.read, h]
    · split
      · subst_vars; simp [Memory.read, h]
      · simp [Memory.read, ih]

theorem Memory.read_write (m : Memory) (a a2 : Nat) (b : Byte) :
    Memory.read (Memory.write m a b) a2 = if a2 = a then some b else Memory.read m a2 := by
  split
  · subst_vars; simp
  · exact Memory.read_write_other m a a2 b ‹_›

theorem Memory.risingAbove_write (m : Memory) (lo a : Nat) (b : Byte) (h : Memory.risingAbove lo m = true)
    (hlo : lo < a) : Memory.risingAbove lo (Memory.write m a b) = true := by
  induction m generalizing lo with
  | nil => simp [Memory.write, Memory.risingAbove, hlo]
  | cons c m ih =>
    obtain ⟨a', b'⟩ := c
    simp only [Memory.risingAbove, Bool.and_eq_true, decide_eq_true_eq] at h
    simp only [Memory.write]
    split
    · simp [Memory.risingAbove, *]
    · split
      · subst_vars; simp [Memory.risingAbove, h]
      · simp only [Memory.risingAbove, Bool.and_eq_true, decide_eq_true_eq]
        exact ⟨h.1, ih a' h.2 (by omega)⟩

theorem Memory.all_write (m : Memory) (a : Nat) (b : Byte) (p : Host.Cell → Bool) (h : m.all p = true)
    (hp : p (a, b) = true) : (Memory.write m a b).all p = true := by
  induction m with
  | nil => simpa [Memory.write] using hp
  | cons c m ih =>
    obtain ⟨a', b'⟩ := c
    simp only [List.all_cons, Bool.and_eq_true] at h
    simp only [Memory.write]
    split
    · simp [h, hp]
    · split
      · simp [h, hp]
      · simp [h, ih h.2]

/-- A write inside the address space keeps the canonical form. -/
theorem Memory.write_wf (m : Memory) (a : Nat) (b : Byte) (h : Memory.wf m = true) (ha : a < 65535) :
    Memory.wf (Memory.write m a b) = true := by
  cases m with
  | nil => simp [Memory.write, Memory.wf, Memory.risingAbove, ha]
  | cons c m =>
    obtain ⟨a', b'⟩ := c
    simp only [Memory.wf, Bool.and_eq_true] at h
    have hall := Memory.all_write ((a', b') :: m) a b _ h.2 (by simpa using ha)
    simp only [Memory.write] at hall ⊢
    split
    · rename_i hlt
      simp only [hlt, if_true] at hall
      simp only [Memory.wf, Bool.and_eq_true]
      exact ⟨by simp [Memory.risingAbove, hlt, h.1], hall⟩
    · rename_i hge
      simp only [hge, if_false] at hall
      split
      · subst_vars
        simp only [if_true] at hall
        simp only [Memory.wf, Bool.and_eq_true]
        exact ⟨h.1, hall⟩
      · rename_i hne
        simp only [hne, if_false] at hall
        simp only [Memory.wf, Bool.and_eq_true]
        exact ⟨Memory.risingAbove_write m a' a b h.1 (by omega), hall⟩

/-- Consecutive writes inside the address space keep the canonical form. -/
theorem Memory.writeAll_wf (m : Memory) (a : Nat) (bs : List Byte) (h : Memory.wf m = true)
    (ha : a + bs.length ≤ 65535) : Memory.wf (Memory.writeAll m a bs) = true := by
  induction bs generalizing m a with
  | nil => simpa [Memory.writeAll] using h
  | cons b bs ih =>
    simp only [List.length_cons] at ha
    exact ih _ _ (Memory.write_wf m a b h (by omega)) (by omega)

/-- Reading after consecutive writes. -/
theorem Memory.read_writeAll (m : Memory) (a a2 : Nat) (bs : List Byte) :
    Memory.read (Memory.writeAll m a bs) a2 =
      if a ≤ a2 ∧ a2 < a + bs.length then bs[a2 - a]? else Memory.read m a2 := by
  induction bs generalizing m a with
  | nil => simp [Memory.writeAll]
  | cons b bs ih =>
    simp only [Memory.writeAll, ih, Memory.read_write, List.length_cons]
    by_cases h1 : a2 = a
    · subst h1; simp
    · by_cases h2 : a + 1 ≤ a2 ∧ a2 < a + 1 + bs.length
      · have : a2 - a = (a2 - (a + 1)) + 1 := by omega
        rw [if_pos h2, if_pos (by omega), this]
        simp
      · rw [if_neg h2, if_neg h1, if_neg (by omega)]

/-- The host's store is the only thing that writes the buffer, and it keeps the canonical form (20_memory.md R61). -/
theorem State.hostStore_wf (s : State) (h : Memory.wf s.buf = true) : Memory.wf s.hostStore.buf = true := by
  unfold State.hostStore
  split
  · exact h
  · exact Memory.write_wf _ _ _ h (Fin.isLt _)

/-- The buffer after reset has the canonical form. -/
theorem State.reset_wf : Memory.wf State.reset.buf = true := rfl

/-- Placing an instruction keeps the canonical form. -/
theorem State.loadWord_wf (s : State) (nbits w : Nat) (h : Memory.wf s.buf = true) :
    Memory.wf (s.loadWord nbits w).buf = true := by
  refine Memory.writeAll_wf _ _ _ h ?_
  simp [fetchFrame, frameBytes]
  omega

end Sys2Proof.Machine
end

