-- ==== Sys2Proof/Laws/PerInstr.lean ====
section
/-!
SUPPORT. Laws/PerInstr.lean: the families of lemmas with one lemma per instruction.
-/

namespace Sys2Proof.Laws.CodeDirection

/-- An instruction is well formed, is one byte long, and bit 7 of its code says whether the count-zero convention is
enabled: responses and indications have it, requests have not (30_encoding.md R89, R96; 43_dispatch.md R170). -/
def Statement (i : Instr) : Prop :=
  i.wellFormed = true ∧ (encode i).length = 1 ∧ (Machine.dispatch i.code).zc = i.code.getLsbD 7

theorem getServerItemReq : Statement .getServerItemReq := ⟨rfl, rfl, rfl⟩

theorem setServerItemReq : Statement .setServerItemReq := ⟨rfl, rfl, rfl⟩

theorem getDatapointDescriptionReq : Statement .getDatapointDescriptionReq := ⟨rfl, rfl, rfl⟩

theorem getDescriptionStringReq : Statement .getDescriptionStringReq := ⟨rfl, rfl, rfl⟩

theorem getDatapointValueReq : Statement .getDatapointValueReq := ⟨rfl, rfl, rfl⟩

theorem setDatapointValueReq : Statement .setDatapointValueReq := ⟨rfl, rfl, rfl⟩

theorem getParameterByteReq : Statement .getParameterByteReq := ⟨rfl, rfl, rfl⟩

theorem request08Req : Statement .request08Req := ⟨rfl, rfl, rfl⟩

theorem getServerItemRes : Statement .getServerItemRes := ⟨rfl, rfl, rfl⟩

theorem setServerItemRes : Statement .setServerItemRes := ⟨rfl, rfl, rfl⟩

theorem getDatapointDescriptionRes : Statement .getDatapointDescriptionRes := ⟨rfl, rfl, rfl⟩

theorem getDescriptionStringRes : Statement .getDescriptionStringRes := ⟨rfl, rfl, rfl⟩

theorem getDatapointValueRes : Statement .getDatapointValueRes := ⟨rfl, rfl, rfl⟩

theorem setDatapointValueRes : Statement .setDatapointValueRes := ⟨rfl, rfl, rfl⟩

theorem getParameterByteRes : Statement .getParameterByteRes := ⟨rfl, rfl, rfl⟩

theorem response88Res : Statement .response88Res := ⟨rfl, rfl, rfl⟩

theorem datapointValueInd : Statement .datapointValueInd := ⟨rfl, rfl, rfl⟩

theorem serverItemInd : Statement .serverItemInd := ⟨rfl, rfl, rfl⟩

end Sys2Proof.Laws.CodeDirection
end

