-- ==== Sys2Proof/Laws/Step.lean ====
section
/-!
SUPPORT. Laws/Step.lean: what a step can do, said once: the cases of `cycle`, and for each unit of work the states it can
answer. Later proofs take these apart instead of unfolding the machine.
-/

namespace Sys2Proof.Machine

/-! ### The step -/

theorem mapNext_next (f : State → State) (o : Host.Outcome State Fault Refusal) (t : State) :
    mapNext f o = .next t ↔ ∃ u, o = .next u ∧ t = f u := by
  cases o <;> simp [mapNext, eq_comm]

/-- A step that answers a next state is a cycle that does, followed by the move to the host's next inputs. -/
theorem step_next (s t : State) : step s = .next t ↔ ∃ u, cycle s.hostStore = .next u ∧ t = u.elapse := by
  simp [step, mapNext_next]

/-- Everything one cycle can do (70_reset_and_hazards.md R331; 45_orchestration.md R262, R267, R273, R275, R279). -/
inductive CycleCase (s : State) : State → Prop where
  | reset : s.pins.rst = true → CycleCase s s.resetBlock
  | accept : s.pins.rst = false → s.pend.valid = true → s.pins.evReady = true → CycleCase s s.accept
  | stall : s.pins.rst = false → s.pend.valid = true → s.pins.evReady = false → CycleCase s s
  | wait : s.pins.rst = false → s.pend.valid = false → s.pos.busy = true → s.pins.wait = true → CycleCase s s
  | present : s.pins.rst = false → s.pend.valid = false → s.pos.busy = true → s.pins.wait = false →
      s.burst ≠ [] → CycleCase s s.present
  | work (u : State) : s.pins.rst = false → s.pos.busy = true → s.pins.wait = false → s.free →
      workUnit s = .next u → CycleCase s u
  | start : s.pins.rst = false → s.pend.valid = false → s.pos.busy = false → s.pins.start = true →
      CycleCase s s.beginTransaction
  | rest : s.pins.rst = false → s.pend.valid = false → s.pos.busy = false → s.pins.start = false → CycleCase s s

/-- A step of a running transaction is `busyCycle`. -/
theorem cycle_of_busy (s : State) (h : s.pos.busy = true) : cycle s = busyCycle s := by
  simp only [cycle, h, if_true]

theorem busyCycle_next (s u : State) (hb : s.pos.busy = true) (h : busyCycle s = .next u) : CycleCase s u := by
  unfold busyCycle at h
  split at h
  · simp only [Host.Outcome.next.injEq] at h; subst h; exact .reset ‹_›
  · have hr : s.pins.rst = false := by simpa using ‹¬ s.pins.rst = true›
    split at h
    · simp only [Host.Outcome.next.injEq] at h
      split at h
      · subst h; exact .accept hr ‹_› ‹_›
      · subst h; exact .stall hr ‹_› (by simpa using ‹¬ s.pins.evReady = true›)
    · have hv : s.pend.valid = false := by simpa using ‹¬ s.pend.valid = true›
      split at h
      · simp only [Host.Outcome.next.injEq] at h; subst h; exact .wait hr hv hb ‹_›
      · have hw : s.pins.wait = false := by simpa using ‹¬ s.pins.wait = true›
        split at h
        · exact .work u hr hb hw ⟨hv, by simpa using ‹s.burst.isEmpty = true›⟩ h
        · simp only [Host.Outcome.next.injEq] at h; subst h
          exact .present hr hv hb hw (by simpa using ‹¬ s.burst.isEmpty = true›)

theorem cycle_next (s u : State) (h : cycle s = .next u) : CycleCase s u := by
  by_cases hb : s.pos.busy = true
  · rw [cycle_of_busy s hb] at h; exact busyCycle_next s u hb h
  · have hb' : s.pos.busy = false := by simpa using hb
    simp only [cycle, hb', Bool.false_eq_true, if_false] at h
    split at h
    · simp only [Host.Outcome.next.injEq] at h; subst h; exact .reset ‹_›
    · have hr : s.pins.rst = false := by simpa using ‹¬ s.pins.rst = true›
      split at h
      · simp only [Host.Outcome.next.injEq] at h
        split at h
        · subst h; exact .accept hr ‹_› ‹_›
        · subst h; exact .stall hr ‹_› (by simpa using ‹¬ s.pins.evReady = true›)
      · have hv : s.pend.valid = false := by simpa using ‹¬ s.pend.valid = true›
        simp only [Host.Outcome.next.injEq] at h
        split at h
        · subst h; exact .start hr hv hb' ‹_›
        · subst h; exact .rest hr hv hb' (by simpa using ‹¬ s.pins.start = true›)

/-! ### An accepted START -/

@[simp] theorem State.beginTransaction_regs (s : State) :
    s.beginTransaction.regs = { Regs.reset with len := s.pins.lenIn, status := statusAtStart } := rfl
@[simp] theorem State.beginTransaction_pos (s : State) : s.beginTransaction.pos = .scanning := rfl
@[simp] theorem State.beginTransaction_pend (s : State) : s.beginTransaction.pend = s.pend := rfl
@[simp] theorem State.beginTransaction_burst (s : State) : s.beginTransaction.burst = s.burst := rfl
@[simp] theorem State.beginTransaction_buf (s : State) : s.beginTransaction.buf = s.buf := rfl
@[simp] theorem State.beginTransaction_params (s : State) : s.beginTransaction.params = s.params := rfl
@[simp] theorem State.beginTransaction_pins (s : State) : s.beginTransaction.pins = s.pins := rfl
@[simp] theorem State.beginTransaction_script (s : State) : s.beginTransaction.script = s.script := rfl
@[simp] theorem State.beginTransaction_sink (s : State) : s.beginTransaction.sink = s.sink := rfl
@[simp] theorem State.beginTransaction_tick (s : State) : s.beginTransaction.tick = s.tick := rfl

/-- What it means that the host changes nothing ahead: this step's store changes no byte of the transaction's buffer, and
where the transaction goes on, the next steps change nothing either (R334). -/
theorem State.changesAhead_succ (n : Nat) (s : State) :
    s.changesAhead (n + 1) = false ↔
      s.hostStore.unstable = false ∧
        ∀ t, busyCycle s.hostStore = .next t → t.pos.busy = true → t.elapse.changesAhead n = false := by
  simp only [State.changesAhead, Bool.or_eq_false_iff]
  refine and_congr_right fun _ => ?_
  cases busyCycle s.hostStore with
  | next t => cases h : t.pos.busy <;> simp [h]
  | fault e => simp
  | refused r => simp

/-! ### The units: what each can answer -/

theorem scanUnit_ok (s t : State) (h : scanUnit s = .ok t) :
    (s.regs.len.toNat < 10 ∧ t = ((s.setStatus .short).raise .notRecognized).enterDone) ∨
    (10 ≤ s.regs.len.toNat ∧ 5 ≤ s.regs.scanI.toNat ∧ t = (s.raise .notRecognized).enterDone) ∨
    (10 ≤ s.regs.len.toNat ∧ s.regs.scanI.toNat < 5 ∧ s.passes s.regs.scanI.toNat = true ∧
      t = { s with
        pos := .foundFrame .verify
        regs := { s.regs with
          ftFound := s.ftFoundAt s.regs.scanI.toNat
          startOff := BitVec.ofNat 3 s.regs.scanI.toNat
          dlen := s.byteAt (s.regs.scanI.toNat + 1), ctrl := s.byteAgain (s.regs.scanI.toNat + 4)
          status := setFlag s.regs.status .recognized } }) ∨
    (10 ≤ s.regs.len.toNat ∧ s.regs.scanI.toNat < 5 ∧ s.passes s.regs.scanI.toNat = false ∧
      t = s.setRegs { s.regs with
        ftFound := s.ftFoundAt s.regs.scanI.toNat, scanI := BitVec.ofNat 3 (s.regs.scanI.toNat + 1) }) := by
  simp only [scanUnit, Config.minLen, Config.scanWindow] at h
  split at h
  · simp only [Except.ok.injEq] at h; exact .inl ⟨‹_›, h.symm⟩
  · split at h
    · simp only [Except.ok.injEq] at h; exact .inr (.inl ⟨by omega, ‹_›, h.symm⟩)
    · split at h
      · refine .inr (.inr (.inl ⟨by omega, by omega, ‹_›, ?_⟩))
        simp only [State.acceptCandidate] at h
        rw [State.readByte_of_lt _ _ (by simp; omega), State.readAgain_of_lt _ _ (by simp; omega)] at h
        simp only [Except.ok.injEq] at h
        exact h.symm
      · refine .inr (.inr (.inr ⟨by omega, by omega, by simpa using ‹¬ s.passes _ = true›, ?_⟩))
        simp only [Except.ok.injEq] at h
        exact h.symm

theorem declaredUnit_ok (s t : State) (h : declaredUnit s = .ok t) :
    (s.trailerOffset < s.regs.len.toNat ∧
      t = ((s.setRegs { s.regs with csumDecl := s.byteAt s.trailerOffset }).goto (.trailer .compare)).emit
        [fieldEvent s.trailerOffset 1 .ftChecksum ((s.byteAt s.trailerOffset).setWidth 16)]) ∨
    (s.regs.len.toNat ≤ s.trailerOffset ∧ t = s.goto (.trailer .endMark)) := by
  simp only [declaredUnit] at h
  split at h
  · have hl := (State.fits_iff _ _ _).1 ‹_›
    rw [State.readByte_of_lt _ _ hl] at h
    simp only [Except.ok.injEq] at h
    exact .inl ⟨by omega, h.symm⟩
  · simp only [Except.ok.injEq] at h
    have := State.not_fits ‹_›
    exact .inr ⟨by omega, h.symm⟩

theorem compareUnit_ok (s t : State) (h : compareUnit s = .ok t) :
    ∃ c, s.checksum (s.frameStart + 4) s.trailerOffset = .ok c ∧
      ((c = s.regs.csumDecl ∧
        t = (s.setRegs { s.regs with
          csumAcc := c, csumCalc := c
          status := setFlag (setFlag s.regs.status .csumChecked) .csumOk }).goto (.trailer .endMark)) ∨
      (c ≠ s.regs.csumDecl ∧
        t = ((s.setRegs { s.regs with
          csumAcc := c, csumCalc := c, status := setFlag s.regs.status .csumChecked }).goto
            (.trailer .endMark)).raise (.checksumError c s.regs.csumDecl))) := by
  simp only [compareUnit] at h
  split at h
  · rename_i c hc
    refine ⟨c, hc, ?_⟩
    by_cases e : c = s.regs.csumDecl
    · left
      simp only [e, beq_self_eq_true, if_true, setFlagIf, Except.ok.injEq] at h
      exact ⟨e, by rw [← h, e]⟩
    · right
      have e' : (c == s.regs.csumDecl) = false := by simpa using e
      simp only [e', setFlagIf, Except.ok.injEq] at h
      exact ⟨e, h.symm⟩
  · exact absurd h (by simp)

theorem endMarkUnit_ok (s t : State) (h : endMarkUnit s = .ok t) :
    (s.trailerOffset + 1 < s.regs.len.toNat ∧
      t = (s.goto (.trailer .leave)).emit
        [fieldEvent (s.trailerOffset + 1) 1 .ftEnd ((s.byteAt (s.trailerOffset + 1)).setWidth 16)]) ∨
    (s.regs.len.toNat ≤ s.trailerOffset + 1 ∧ t = s.goto (.trailer .leave)) := by
  simp only [endMarkUnit] at h
  split at h
  · have hl := (State.fits_iff _ _ _).1 ‹_›
    rw [State.readByte_of_lt _ _ hl] at h
    simp only [Except.ok.injEq] at h
    exact .inl ⟨by omega, h.symm⟩
  · simp only [Except.ok.injEq] at h
    have := State.not_fits ‹_›
    exact .inr ⟨by omega, h.symm⟩

theorem headerFieldUnit_ok (k : Nat) (tag : Tag) (s t : State) (h : headerFieldUnit k tag s = .ok t) :
    s.frameStart + k < s.regs.len.toNat ∧
      t = (s.goto (.header (.field (k + 1)))).emit
        [fieldEvent (s.frameStart + k) 1 tag ((s.byteAt (s.frameStart + k)).setWidth 16)] := by
  simp only [headerFieldUnit] at h
  split at h
  · rename_i b hb
    obtain ⟨hl, rfl⟩ := (State.readByte_eq_ok _ _ _).1 hb
    simp only [Except.ok.injEq] at h
    exact ⟨by omega, h.symm⟩
  · exact absurd h (by simp)

theorem subUnit_ok (s t : State) (h : subUnit s = .ok t) :
    (s.payloadStart + 1 < s.regs.len.toNat ∧
      t = ((s.setRegs { s.regs with
        sub := s.byteAt (s.payloadStart + 1), status := setFlag s.regs.status .subValid }).goto
          (.header .dispatch)).emit
        [fieldEvent (s.payloadStart + 1) 1 .baosSub ((s.byteAt (s.payloadStart + 1)).setWidth 16)]) ∨
    (s.regs.len.toNat ≤ s.payloadStart + 1 ∧ t = (s.raise .truncated).goto (.header .leave)) := by
  simp only [subUnit] at h
  split at h
  · have hl := (State.fits_iff _ _ _).1 ‹_›
    rw [State.readByte_of_lt _ _ hl] at h
    simp only [Except.ok.injEq] at h
    exact .inl ⟨by omega, h.symm⟩
  · simp only [Except.ok.injEq] at h
    have := State.not_fits ‹_›
    exact .inr ⟨by omega, h.symm⟩

/-! ### The units of a body -/

theorem listHeaderUnit_ok (m : BodyCfg) (s t : State) (h : listHeaderUnit m s = .ok t) :
    (s.payloadStart + 4 ≤ s.regs.len.toNat ∧
      t = ((s.setRegs { s.regs with
        startId := beWord s.byteAt (s.payloadStart + 2), status := setFlag s.regs.status .startIdValid }).goto
          (.payload .countField)).emit
        [fieldEvent (s.payloadStart + 2) 2 (listHeaderTag m.idxhdr) (beWord s.byteAt (s.payloadStart + 2))]) ∨
    (s.regs.len.toNat < s.payloadStart + 4 ∧ t = s.truncateBody) := by
  simp only [listHeaderUnit] at h
  split at h
  · have hl := (State.fits_iff _ _ _).1 ‹_›
    rw [State.memRead_two _ _ hl] at h
    simp only [Except.ok.injEq] at h
    exact .inl ⟨by omega, h.symm⟩
  · simp only [Except.ok.injEq] at h
    have := State.not_fits ‹_›
    exact .inr ⟨by omega, h.symm⟩

theorem countUnit_ok (s t : State) (h : countUnit s = .ok t) :
    (s.payloadStart + 6 ≤ s.regs.len.toNat ∧
      t = ((s.setRegs { s.regs with
        count := beWord s.byteAt (s.payloadStart + 4), status := setFlag s.regs.status .countValid }).goto
          (.payload .select)).emit
        [fieldEvent (s.payloadStart + 4) 2 .count (beWord s.byteAt (s.payloadStart + 4))]) ∨
    (s.regs.len.toNat < s.payloadStart + 6 ∧ t = s.truncateBody) := by
  simp only [countUnit] at h
  split at h
  · have hl := (State.fits_iff _ _ _).1 ‹_›
    rw [State.memRead_two _ _ hl] at h
    simp only [Except.ok.injEq] at h
    exact .inl ⟨by omega, h.symm⟩
  · simp only [Except.ok.injEq] at h
    have := State.not_fits ‹_›
    exact .inr ⟨by omega, h.symm⟩

theorem errorCodeWork_ok (s t : State) (h : errorCodeWork s = .ok t) :
    (s.regs.cur.toNat < s.regs.len.toNat ∧
      t = ((s.setRegs { s.regs with
        errcode := s.byteAt s.regs.cur.toNat, status := setFlag s.regs.status .errcodeValid }).endBody).emit
        [fieldEvent s.regs.cur.toNat 1 .errorCode ((s.byteAt s.regs.cur.toNat).setWidth 16)]) ∨
    (s.regs.len.toNat ≤ s.regs.cur.toNat ∧ t = s.truncateBody) := by
  simp only [errorCodeWork] at h
  split at h
  · have hl := (State.fits_iff _ _ _).1 ‹_›
    rw [State.readByte_of_lt _ _ hl] at h
    simp only [Except.ok.injEq] at h
    exact .inl ⟨by omega, h.symm⟩
  · simp only [Except.ok.injEq] at h
    have := State.not_fits ‹_›
    exact .inr ⟨by omega, h.symm⟩

theorem filterWork_ok (s t : State) (h : filterWork s = .ok t) :
    (s.regs.cur.toNat < s.regs.len.toNat ∧
      t = s.endBody.emit [fieldEvent s.regs.cur.toNat 1 .dpFilter ((s.byteAt s.regs.cur.toNat).setWidth 16)]) ∨
    (s.regs.len.toNat ≤ s.regs.cur.toNat ∧ t = s.truncateBody) := by
  simp only [filterWork] at h
  split at h
  · have hl := (State.fits_iff _ _ _).1 ‹_›
    rw [State.readByte_of_lt _ _ hl] at h
    simp only [Except.ok.injEq] at h
    exact .inl ⟨by omega, h.symm⟩
  · simp only [Except.ok.injEq] at h
    have := State.not_fits ‹_›
    exact .inr ⟨by omega, h.symm⟩

/-- The state in which the selection stands after R202's `CUR <- P+6; IDX <- 0`. -/
theorem selectUnit_ok (m : BodyCfg) (s t : State) (h : selectUnit m s = .ok t) :
    let s' := s.setRegs { s.regs with cur := BitVec.ofNat 16 (s.payloadStart + 6), idx := 0 }
    t = s'.endBody ∨ t = s'.goto (.payload .record) ∨ errorCodeWork s' = .ok t ∨ filterWork s' = .ok t := by
  intro s'
  simp only [selectUnit] at h
  split at h
  · simp only [Except.ok.injEq] at h; exact .inl h.symm
  · simp only [Except.ok.injEq] at h; exact .inl h.symm
  · split at h
    · exact .inr (.inr (.inl h))
    · simp only [Except.ok.injEq] at h; exact .inl h.symm
  · exact .inr (.inr (.inr h))
  all_goals
    split at h
    · exact .inr (.inr (.inl h))
    · simp only [Except.ok.injEq] at h; exact .inr (.inl h.symm)

/-- A record shape's fields lie inside its fixed prefix and are one or two bytes wide (the table of R206). -/
theorem shapeOf_fields (c : Params) (k : Kind) (sh : Shape) (h : shapeOf c k = some sh) :
    (∀ f ∈ sh.lead, f.off + f.width ≤ sh.size ∧ (f.width = 1 ∨ f.width = 2)) ∧
    (∀ o w, sh.lenField = some (o, w) → o + w ≤ sh.size ∧ (w = 1 ∨ w = 2)) ∧ (sh.typed = true → 2 ≤ sh.size) ∧
    1 ≤ sh.size := by
  cases k <;> simp only [shapeOf, reduceCtorEq, Option.some.injEq] at h <;> subst h <;> simp

/-- A view is applied to one or two bytes of data only (R225). -/
theorem appliedView_width (table : List (Nat × ViewType)) (id n : Nat) (v : ViewType)
    (h : appliedView table id n = some v) : n = 1 ∨ n = 2 := by
  simp only [appliedView] at h
  split at h
  · rename_i hw
    revert hw
    cases viewOf table id <;> simp [ViewType.width] <;> omega
  · simp at h

theorem leadFieldUnit_ok (f : LeadField) (k : Nat) (s t : State) (hw : f.width = 1 ∨ f.width = 2)
    (h : leadFieldUnit f k s = .ok t) :
    s.regs.cur.toNat + f.off + f.width ≤ s.regs.len.toNat ∧
      t = (s.goto (.payload (.lead (k + 1)))).emit
        (leadEvents f s.regs.cur.toNat (fieldValue s.byteAt (s.regs.cur.toNat + f.off) f.width)) := by
  simp only [leadFieldUnit] at h
  split at h
  · rename_i v hv
    obtain ⟨hl, rfl⟩ := (State.memRead_eq_ok _ _ _ _ hw).1 hv
    simp only [Except.ok.injEq] at h
    exact ⟨hl, h.symm⟩
  · exact absurd h (by simp)

theorem variableUnit_ok (sh : Shape) (s t : State) (h : variableUnit sh s = .ok t) :
    ∃ n, variableLength sh s = .ok n ∧
      ((s.regs.cur.toNat + sh.size + n ≤ s.regs.len.toNat ∧
        t = (s.goto (.payload (.view n))).emit (variableEvents sh s.regs.cur.toNat n)) ∨
      (s.regs.len.toNat < s.regs.cur.toNat + sh.size + n ∧ t = s.truncateBody)) := by
  simp only [variableUnit] at h
  split at h
  · rename_i n hn
    refine ⟨n, hn, ?_⟩
    split at h
    · simp only [Except.ok.injEq] at h
      exact .inl ⟨(State.fits_iff _ _ _).1 ‹_›, h.symm⟩
    · simp only [Except.ok.injEq] at h
      exact .inr ⟨State.not_fits ‹_›, h.symm⟩
  · exact absurd h (by simp)

/-- The view unit emits the view's events at the data, and changes only the position (R225). -/
theorem viewUnit_ok (sh : Shape) (n : Nat) (s t : State) (h : viewUnit sh n s = .ok t) :
    t = s.goto (.payload (.advance n)) ∨
    ∃ v w, (n = 1 ∨ n = 2) ∧ s.regs.cur.toNat + sh.size + n ≤ s.regs.len.toNat ∧
      t = (s.goto (.payload (.advance n))).emit (viewEvents v (s.regs.cur.toNat + sh.size) n w) := by
  simp only [viewUnit] at h
  split at h
  · split at h
    · split at h
      · rename_i v hv
        split at h
        · rename_i w hw
          have hn := appliedView_width _ _ _ _ hv
          simp only [Except.ok.injEq] at h
          exact .inr ⟨v, w, hn, ((State.memRead_eq_ok _ _ _ _ hn).1 hw).1, h.symm⟩
        · exact absurd h (by simp)
      · simp only [Except.ok.injEq] at h; exact .inl h.symm
    · exact absurd h (by simp)
  · simp only [Except.ok.injEq] at h; exact .inl h.symm

end Sys2Proof.Machine
end

