-- ==== Sys2Proof/Tests/Slice0.lean ====
section
/-!
SUPPORT. Tests/Slice0.lean: the model's own tests. Expected values are the spec's: the code bytes of 30_encoding.md R96 written out
bit by bit, the examples of 43_dispatch.md R174-R191 and 44_record_streams.md R201-R245, the tag numbers of
45_orchestration.md R269. The second half holds, for every statement with hypotheses, a state that meets them together.
-/

namespace Sys2Proof.Tests

open Sys2Proof.Machine

/-! ### Helpers -/

/-- A block in the middle of a transaction on these buffer bytes. -/
def board (bs : List Byte) (p : Pos) (g : Regs → Regs) : State :=
  { State.reset with
    buf := Memory.writeAll [] 0 bs, pos := p
    regs := g { Regs.reset with len := BitVec.ofNat 16 bs.length, status := setFlag statusAtStart .recognized } }

/-- A block at a position of the body of the frame that carries this payload at address 0. -/
def inBody (payload : List Byte) (p : BodyPos) (g : Regs → Regs) : State :=
  board (frameBytes 0xF3 payload) (.payload p) (fun r =>
    g { r with dlen := BitVec.ofNat 8 payload.length, ctrl := 0xF3, toff := BitVec.ofNat 16 (5 + payload.length),
               sub := payload.getD 1 0, kind := (dispatch (payload.getD 1 0)).kind.code })

/-- The cursor on the first record of `n` declared ones. -/
def atRecord (n : Nat) (r : Regs) : Regs := { r with cur := 11, count := BitVec.ofNat 16 n }

/-- A wire record as numbers: offset, length, tag, raw, value. -/
def shown (w : Wires) : List Nat := [w.off.toNat, w.len.toNat, w.tag.toNat, w.raw.toNat, w.val.toNat]

/-- The events one call of a meaning offers. -/
def offered (i : Instr) (s : State) : Option (List (List Nat)) :=
  match exec i s with
  | .next t => some (t.waiting.map shown)
  | _ => none

/-- A view of the state one call of a meaning answers. -/
def after (α : Type) (f : State → α) (o : Host.Outcome State Fault Refusal) : Option α :=
  match o with
  | .next t => some (f t)
  | _ => none

/-! ### Well-formedness: one ill-formed frame for each check -/

def good : Frame := { junk := [0, 0], control := .rxOdd, sub := .getServerItemReq, operands := [0, 1, 0, 2], trailing := [] }

theorem test_frame_well_formed : good.wellFormed = true := by decide

/-- Five junk bytes put the frame start outside the scan window (R130). -/
theorem test_frame_long_junk : { good with junk := [0, 0, 0, 0, 0] }.wellFormed = false := by decide

/-- A start marker in the junk (R131). -/
theorem test_frame_marker_in_junk : { good with junk := [0x68] }.wellFormed = false := by decide

/-- A payload of 256 bytes does not fit the declared-length byte (R103). -/
theorem test_frame_long_payload (o : List Byte) (h : o.length = 254) : { good with operands := o }.wellFormed = false := by
  simp [Frame.wellFormed, Frame.payloadFits, Frame.payloadLength, h]

/-- A buffer of more than 65535 bytes (R20). -/
theorem test_frame_long_buffer (t : List Byte) (h : t.length = 65535) :
    { good with trailing := t }.wellFormed = false := by
  simp [Frame.wellFormed, Frame.bufferFits, Frame.totalLength, Frame.payloadLength, h, good, Config.lenMax]

/-! ### Decoding: every constructor's code byte, bit by bit (R96) -/

theorem test_decode_getServerItemReq : decodeTableWord 8 0b00000001 = some .getServerItemReq := by decide
theorem test_decode_setServerItemReq : decodeTableWord 8 0b00000010 = some .setServerItemReq := by decide
theorem test_decode_getDatapointDescriptionReq :
    decodeTableWord 8 0b00000011 = some .getDatapointDescriptionReq := by decide
theorem test_decode_getDescriptionStringReq : decodeTableWord 8 0b00000100 = some .getDescriptionStringReq := by decide
theorem test_decode_getDatapointValueReq : decodeTableWord 8 0b00000101 = some .getDatapointValueReq := by decide
theorem test_decode_setDatapointValueReq : decodeTableWord 8 0b00000110 = some .setDatapointValueReq := by decide
theorem test_decode_getParameterByteReq : decodeTableWord 8 0b00000111 = some .getParameterByteReq := by decide
theorem test_decode_request08Req : decodeTableWord 8 0b00001000 = some .request08Req := by decide
theorem test_decode_getServerItemRes : decodeTableWord 8 0b10000001 = some .getServerItemRes := by decide
theorem test_decode_setServerItemRes : decodeTableWord 8 0b10000010 = some .setServerItemRes := by decide
theorem test_decode_getDatapointDescriptionRes :
    decodeTableWord 8 0b10000011 = some .getDatapointDescriptionRes := by decide
theorem test_decode_getDescriptionStringRes : decodeTableWord 8 0b10000100 = some .getDescriptionStringRes := by decide
theorem test_decode_getDatapointValueRes : decodeTableWord 8 0b10000101 = some .getDatapointValueRes := by decide
theorem test_decode_setDatapointValueRes : decodeTableWord 8 0b10000110 = some .setDatapointValueRes := by decide
theorem test_decode_getParameterByteRes : decodeTableWord 8 0b10000111 = some .getParameterByteRes := by decide
theorem test_decode_response88Res : decodeTableWord 8 0b10001000 = some .response88Res := by decide
theorem test_decode_datapointValueInd : decodeTableWord 8 0b11000001 = some .datapointValueInd := by decide
theorem test_decode_serverItemInd : decodeTableWord 8 0b11000010 = some .serverItemInd := by decide
/-- R100: neighbours of the recognised codes are rejected. -/
theorem test_decode_rejects :
    [0x00, 0x09, 0x80, 0x89, 0xC0, 0xC3, 0xFF].map (decodeTableWord 8) =
      [none, none, none, none, none, none, none] := by decide

/-- The placed word is the next instruction to run: 0x87 offers START_INDEX at P+2. -/
theorem test_placed_word :
    after _ (fun t => t.waiting.map shown) (step (State.reset.withFetchWord 8 0x87)) = some [[7, 2, 0x09, 0, 0]] := by
  decide

/-! ### One unit of each instruction, on the spec's examples -/

/-- R174: START_ID = 1. -/
theorem test_getServerItemReq : offered .getServerItemReq
    (inBody [0xF0, 0x01, 0x00, 0x01, 0x00, 0x14] .listHeader id) = some [[7, 2, 0x08, 0, 1]] := by decide
/-- R174: COUNT = 20. -/
theorem test_getServerItemReq_count : offered .getServerItemReq
    (inBody [0xF0, 0x01, 0x00, 0x01, 0x00, 0x14] .countField id) = some [[9, 2, 0x0A, 0, 20]] := by decide
/-- R176: COUNT = 0 reads no error byte; the record loop ends at once. -/
theorem test_setServerItemReq_empty : after _ (·.pos) (exec .setServerItemReq
    (inBody [0xF0, 0x02, 0x00, 0x01, 0x00, 0x00] .select id)) = some (.payload .record) := by decide
theorem test_setServerItemReq_ends : after _ (·.pos) (exec .setServerItemReq
    (inBody [0xF0, 0x02, 0x00, 0x01, 0x00, 0x00] .record (atRecord 0))) = some (.payload .leave) := by decide
/-- R178: COUNT = 2. -/
theorem test_getDatapointDescriptionReq : offered .getDatapointDescriptionReq
    (inBody [0xF0, 0x03, 0x00, 0x01, 0x00, 0x02] .countField id) = some [[9, 2, 0x0A, 0, 2]] := by decide
/-- R180: START_ID = 3. -/
theorem test_getDescriptionStringReq : offered .getDescriptionStringReq
    (inBody [0xF0, 0x04, 0x00, 0x03, 0x00, 0x01] .listHeader id) = some [[7, 2, 0x08, 0, 3]] := by decide
/-- R182: DP_FILTER = 0 at P+6, with COUNT = 10. -/
theorem test_getDatapointValueReq : offered .getDatapointValueReq
    (inBody [0xF0, 0x05, 0x00, 0x01, 0x00, 0x0A, 0x00] .select (fun r => { r with count := 10 })) =
      some [[11, 1, 0x0C, 0, 0]] := by decide
/-- R184: DP_COMMAND = 3 of the record 00 01 03 01 01. -/
theorem test_setDatapointValueReq : offered .setDatapointValueReq
    (inBody [0xF0, 0x06, 0, 1, 0, 1, 0x00, 0x01, 0x03, 0x01, 0x01] (.lead 1) (atRecord 1)) =
      some [[13, 1, 0x21, 0, 3]] := by decide
/-- R186: START_INDEX = 10. -/
theorem test_getParameterByteReq : offered .getParameterByteReq
    (inBody [0xF0, 0x07, 0x00, 0x0A, 0x00, 0x04] .listHeader id) = some [[7, 2, 0x09, 0, 10]] := by decide
/-- R188: nothing after the count. -/
theorem test_request08Req : after _ (·.pos) (exec .request08Req
    (inBody [0xF0, 0x08, 0x00, 0x01, 0x00, 0x01] .select (fun r => { r with count := 1 }))) =
      some (.payload .leave) := by decide
/-- R220, R229: the record 00 0D 01 02 has SI_BAUDRATE = 2. -/
theorem test_getServerItemRes : offered .getServerItemRes
    (inBody [0xF0, 0x81, 0, 1, 0, 1, 0x00, 0x0D, 0x01, 0x02] (.view 1) (atRecord 1)) =
      some [[14, 1, 0x19, 0, 2]] := by decide
/-- R177: ERROR_CODE = 0 at address 11. -/
theorem test_setServerItemRes : offered .setServerItemRes
    (inBody [0xF0, 0x82, 0x00, 0x01, 0x00, 0x00, 0x00] .select id) = some [[11, 1, 0x0B, 0, 0]] := by decide
/-- R236: cf = 0x9E gives prio 2, comm 1, read 1, write 1, read-on-init 0, transmit 0, update-on-response 1. -/
theorem test_getDatapointDescriptionRes : offered .getDatapointDescriptionRes
    (inBody [0xF0, 0x83, 0, 1, 0, 1, 0x00, 0x01, 0x00, 0x9E, 0x01] (.lead 2) (atRecord 1)) =
      some [[14, 1, 0x31, 0, 0x9E], [14, 1, 0x32, 0, 2], [14, 1, 0x33, 0, 1], [14, 1, 0x34, 0, 1],
        [14, 1, 0x35, 0, 1], [14, 1, 0x36, 0, 0], [14, 1, 0x37, 0, 0], [14, 1, 0x38, 0, 1]] := by decide
/-- R240: the record 00 03 41 42 43 has a raw text of 3 bytes at c+2. -/
theorem test_getDescriptionStringRes : offered .getDescriptionStringRes
    (inBody [0xF0, 0x84, 0, 1, 0, 1, 0x00, 0x03, 0x41, 0x42, 0x43] .varPart (atRecord 1)) =
      some [[13, 3, 0x41, 1, 0]] := by decide
/-- R230, R231: state byte 0x02: valid 0, updated 1, read-request 0, transmission 0. -/
theorem test_getDatapointValueRes : offered .getDatapointValueRes
    (inBody [0xF0, 0x85, 0, 1, 0, 1, 0x00, 0x01, 0x02, 0x01, 0x09] (.lead 1) (atRecord 1)) =
      some [[13, 1, 0x22, 0, 2], [13, 1, 0x23, 0, 0], [13, 1, 0x24, 0, 1], [13, 1, 0x25, 0, 0],
        [13, 1, 0x26, 0, 0]] := by decide
/-- R185: ERROR_CODE = 0 at address 11. -/
theorem test_setDatapointValueRes : offered .setDatapointValueRes
    (inBody [0xF0, 0x86, 0x00, 0x01, 0x00, 0x00, 0x00] .select id) = some [[11, 1, 0x0B, 0, 0]] := by decide
/-- R187: the first parameter byte is 0x11, at P+6. -/
theorem test_getParameterByteRes : offered .getParameterByteRes
    (inBody [0xF0, 0x87, 0x00, 0x0A, 0x00, 0x04, 0x11, 0x22, 0x33, 0x44] (.lead 0) (atRecord 4)) =
      some [[11, 1, 0x48, 0, 0x11]] := by decide
/-- R189: ERROR_CODE = 5. -/
theorem test_response88Res : offered .response88Res
    (inBody [0xF0, 0x88, 0x00, 0x01, 0x00, 0x00, 0x05] .select id) = some [[11, 1, 0x0B, 0, 5]] := by decide
/-- R190, R213: a value of length 0 is a raw field of length 0 at c+4. -/
theorem test_datapointValueInd : offered .datapointValueInd
    (inBody [0xF0, 0xC1, 0x00, 0x05, 0x00, 0x01, 0x00, 0x05, 0x03, 0x00] .varPart (atRecord 1)) =
      some [[15, 0, 0x28, 1, 0]] := by decide
/-- R191, R227: v = 0x1105 gives area 1, line 1, device 5, each at c+3 with length 2. -/
theorem test_serverItemInd : offered .serverItemInd
    (inBody [0xF0, 0xC2, 0x00, 0x14, 0x00, 0x01, 0x00, 0x14, 0x02, 0x11, 0x05] (.view 2) (atRecord 1)) =
      some [[14, 2, 0x15, 0, 1], [14, 2, 0x16, 0, 1], [14, 2, 0x17, 0, 5]] := by decide

/-! ### Witnesses: for each statement with hypotheses, states that meet them, each clause at a boundary value -/

/-- A block on `n` bytes 0x01. -/
def cut (n : Nat) (p : Pos) (g : Regs → Regs) : State := board (List.replicate n 0x01) p g

/-- A block before a record: LIST_HEADER's 11 bytes, then the record's bytes, with COUNT = 1 and CUR = 11. -/
def records (rs : List Byte) : State :=
  board (List.replicate 11 0x01 ++ rs) (.payload .record) (fun r => { r with cur := 11, count := 1 })

/-- The same with other input levels. -/
def withPins (s : State) (g : Pins → Pins) : State := { s with pins := g Pins.idle }

/-- An event that waits in PEND. -/
def pending (s : State) : State := { s with pend := { valid := true, wires := fieldEvent 0 1 .ftStart 0x68 } }

/-- The last parameter byte of a response is the next to decode: 0x87 at its record loop, one record left. -/
def lastRecord : State := inBody [0xF0, 0x87, 0x00, 0x0A, 0x00, 0x01, 0x11] .record (atRecord 1)

theorem witness_DecodeAgreesWithEncode :
    decodeSub 0x01 = .ok .getServerItemReq ∧ decodeSub 0xC2 = .ok .serverItemInd ∧
      (∀ i : Instr, i.code ≠ 0x09) ∧ ∀ i : Instr, i.code ≠ 0xFF := by
  refine ⟨by decide, by decide, ?_, ?_⟩ <;> intro i <;> cases i <;> decide

theorem bytes_agree (f : Frame) : ∀ k, k < f.bytes.length → f.bytes[k]? = some (f.bytes.getD k 0) := by
  intro k hk
  simp [hk]

/-- The shortest frame of 10 bytes, and one behind the most junk the window allows. -/
theorem witness_FrameRoundTrip :
    ∀ f ∈ [({ junk := [], control := .txOdd, sub := .request08Req, operands := [0x00], trailing := [] } : Frame),
        { junk := [0, 0, 0, 0], control := .rxEven, sub := .serverItemInd, operands := [0, 1, 0, 0, 5], trailing := [1] }],
      f.wellFormed = true ∧ 10 ≤ f.totalLength ∧
        ∀ k, k < f.bytes.length → f.bytes[k]? = some ((fun a => f.bytes.getD a 0) k) := by
  intro f hf
  refine ⟨?_, ?_, bytes_agree f⟩ <;> revert f <;> decide

/-- Candidate 4 found as the last one that passes; none in 5 bytes; two buffers that differ from address 10 on. -/
theorem witness_LocateContract :
    (board [0, 0, 0, 0, 0x68, 1, 1, 0x68, 0x73, 0xF0] .scanning id).locate = some 4 ∧
    (cut 12 .scanning id).locate = none ∧ (cut 5 .scanning id).regs.len.toNat ≤ 5 ∧
    (board (List.replicate 10 0x01 ++ [2, 2]) .scanning id).regs.len = (cut 12 .scanning id).regs.len ∧
    ∀ a, a < (cut 12 .scanning id).regs.len.toNat → a < 10 →
      (board (List.replicate 10 0x01 ++ [2, 2]) .scanning id).byteAt a = (cut 12 .scanning id).byteAt a := by
  decide

/-- The pairs (0, 3) and (1, 4) in one buffer each (R139). -/
def overlap : List Byte := [0x68, 1, 1, 0x68, 0x73, 0xF0, 0x68, 0x53, 0xF0, 0]

theorem witness_OverlapsThreeApart :
    ((board overlap .scanning id).passes 0 && (board overlap .scanning id).passes 3) = true ∧
    ((board (0 :: overlap) .scanning id).passes 1 && (board (0 :: overlap) .scanning id).passes 4) = true := by decide

theorem witness_ScanEndsUnrecognized :
    ((cut 9 .scanning id).pos = .scanning ∧ (cut 9 .scanning id).free ∧ (cut 9 .scanning id).regs.len.toNat < 10) ∧
    (cut 10 .scanning (fun r => { r with scanI := 5 })).pos = .scanning ∧
    (cut 10 .scanning (fun r => { r with scanI := 5 })).free ∧
    10 ≤ (cut 10 .scanning (fun r => { r with scanI := 5 })).regs.len.toNat ∧
    5 ≤ (cut 10 .scanning (fun r => { r with scanI := 5 })).regs.scanI.toNat := by decide

/-- Candidates 0 and 4 of a buffer of 10 bytes. -/
theorem witness_ScanAccepts :
    ∀ c ∈ [(0, [0x68, 1, 1, 0x68, 0x73, 0xF0, 0, 0, 0, 0]), (4, ([0, 0, 0, 0, 0x68, 1, 1, 0x68, 0xD3, 0xF0] : List Byte))],
      (board c.2 .scanning (fun r => { r with scanI := BitVec.ofNat 3 c.1 })).regs.scanI.toNat = c.1 ∧ c.1 < 5 ∧
      10 ≤ (board c.2 .scanning id).regs.len.toNat ∧
      (board c.2 .scanning id).byteAt c.1 = 0x68 ∧ (board c.2 .scanning id).byteAt (c.1 + 3) = 0x68 ∧
      (board c.2 .scanning id).byteAt (c.1 + 4) ∈ [0x73, 0x53, 0xF3, 0xD3] ∧
      (board c.2 .scanning id).byteAt (c.1 + 5) = 0xF0 ∧
      (board c.2 .scanning id).unstable = false ∧
      (Memory.read (board c.2 .scanning id).buf (c.1 + 4)).isSome = true := by decide

/-- A main-service mismatch at candidate 0, and candidate 4 without a marker. -/
theorem witness_ScanRejects :
    ∀ c ∈ [(0, [0x68, 1, 1, 0x68, 0x73, 0xF1, 0, 0, 0, 0]), (4, ([0, 0, 0, 0, 0x68, 1, 1, 0x67, 0xD3, 0xF0] : List Byte))],
      (board c.2 .scanning (fun r => { r with scanI := BitVec.ofNat 3 c.1 })).regs.scanI.toNat = c.1 ∧ c.1 < 5 ∧
      10 ≤ (board c.2 .scanning id).regs.len.toNat ∧
      ¬ ((board c.2 .scanning id).byteAt c.1 = 0x68 ∧ (board c.2 .scanning id).byteAt (c.1 + 3) = 0x68 ∧
        (board c.2 .scanning id).byteAt (c.1 + 4) ∈ [0x73, 0x53, 0xF3, 0xD3] ∧
        (board c.2 .scanning id).byteAt (c.1 + 5) = 0xF0) := by decide

/-- The empty range at LEN and the whole buffer; the worked example's three bytes at its end (R120). -/
theorem witness_ChecksumIsModularSum :
    (4 ≤ 4 ∧ 4 ≤ (cut 4 .scanning id).regs.len.toNat) ∧ (0 ≤ 4 ∧ 4 ≤ (cut 4 .scanning id).regs.len.toNat) ∧
    1 + 3 ≤ (board [0, 0xF3, 0xF0, 0x85] .scanning id).regs.len.toNat ∧
    [1, 2, 3].map (board [0, 0xF3, 0xF0, 0x85] .scanning id).byteAt = [0xF3, 0xF0, 0x85] := by decide

/-- T = 5: the end marker in the last byte, in the first byte behind the buffer, and a wrong one. -/
theorem witness_VerifyEndMarker :
    (∀ bs ∈ [[1, 1, 1, 1, 1, 1, 0x16], [1, 1, 1, 1, 1, 1], ([1, 1, 1, 1, 1, 1, 0x17] : List Byte)],
      (board bs (.foundFrame .verify) id).pos = .foundFrame .verify ∧ (board bs (.foundFrame .verify) id).free) ∧
    (cut 7 (.foundFrame .leave) id).pos = .foundFrame .leave := by decide

/-- T = 6 and T = 7 in 7 bytes for the declared byte; T + 1 = 6 and T + 1 = 7 for the end marker. -/
theorem witness_TrailerFields :
    (∀ t ∈ [6, 7], (cut 7 (.trailer .declared) (fun r => { r with toff := BitVec.ofNat 16 t })).free) ∧
    (∀ t ∈ [5, 6], (cut 7 (.trailer .endMark) (fun r => { r with toff := BitVec.ofNat 16 t })).free) ∧
    (cut 7 (.trailer .leave) id).pos = .trailer .leave := by decide

/-- The range [4, 6) of 01 01 in 7 bytes, T the last: a sum of 2, declared as 2 and as 3. -/
theorem witness_TrailerCompares :
    ∀ d ∈ [2, 3],
      (cut 7 (.trailer .compare) (fun r => { r with toff := 6, csumDecl := BitVec.ofNat 8 d })).free ∧
      (cut 7 (.trailer .compare) (fun r => { r with toff := 6, csumDecl := BitVec.ofNat 8 d })).regs.startOff.toNat + 4 ≤
        (cut 7 (.trailer .compare) (fun r => { r with toff := 6, csumDecl := BitVec.ofNat 8 d })).regs.toff.toNat ∧
      (cut 7 (.trailer .compare) (fun r => { r with toff := 6, csumDecl := BitVec.ofNat 8 d })).regs.toff.toNat <
        (cut 7 (.trailer .compare) (fun r => { r with toff := 6, csumDecl := BitVec.ofNat 8 d })).regs.len.toNat := by
  decide

/-- The first and the last header field of a buffer that ends right behind them. -/
theorem witness_HeaderFields :
    ∀ c ∈ [(0, Tag.ftStart), (5, Tag.baosMain)],
      (cut 6 (.header (.field c.1)) id).free ∧
      [Tag.ftStart, .ftLength, .ftLength2, .ftStart2, .ftControl, .baosMain][c.1]? = some c.2 ∧
      (cut 6 (.header (.field c.1)) id).regs.startOff.toNat + 6 ≤ (cut 6 (.header (.field c.1)) id).regs.len.toNat := by
  decide

/-- The sub-service byte as the last of the buffer, and just behind it. -/
theorem witness_SubServiceReadAndDispatched :
    (cut 7 (.header (.field 6)) id).pos = .header (.field 6) ∧
    ((cut 7 (.header .sub) id).pos = .header .sub ∧ (cut 7 (.header .sub) id).free) ∧
    ((cut 6 (.header .sub) id).pos = .header .sub ∧ (cut 6 (.header .sub) id).free) ∧
    ((cut 7 (.header .dispatch) id).pos = .header .dispatch ∧ (cut 7 (.header .dispatch) id).free) ∧
    (cut 7 (.header .leave) id).pos = .header .leave := by decide

/-- Each field of the list header as the last bytes of the buffer. -/
theorem witness_ListHeaderFields :
    ((cut 9 (.payload .listHeader) id).free ∧ (cut 9 (.payload .listHeader) id).pos = .payload .listHeader ∧
      (cut 9 (.payload .listHeader) id).regs.startOff.toNat + 7 + 2 ≤ (cut 9 (.payload .listHeader) id).regs.len.toNat) ∧
    (cut 11 (.payload .countField) id).free ∧ (cut 11 (.payload .countField) id).pos = .payload .countField ∧
      (cut 11 (.payload .countField) id).regs.startOff.toNat + 7 + 4 ≤
        (cut 11 (.payload .countField) id).regs.len.toNat := by decide

/-- Each field of the list header with one byte of it missing. -/
theorem witness_ListHeaderTruncated :
    ((cut 8 (.payload .listHeader) id).free ∧ (cut 8 (.payload .listHeader) id).pos = .payload .listHeader ∧
      (cut 8 (.payload .listHeader) id).regs.len.toNat < (cut 8 (.payload .listHeader) id).regs.startOff.toNat + 9) ∧
    (cut 10 (.payload .countField) id).free ∧ (cut 10 (.payload .countField) id).pos = .payload .countField ∧
      (cut 10 (.payload .countField) id).regs.len.toNat <
        (cut 10 (.payload .countField) id).regs.startOff.toNat + 11 := by decide

theorem witness_BodyLeadsToTrailer :
    (cut 9 (.payload .leave) id).pos = .payload .leave ∧
    (cut 9 (.payload .listHeader) (fun r => { r with sub := 0x09 })).pos = .payload .listHeader ∧
    ∀ i : Instr, i.code ≠ (cut 9 (.payload .listHeader) (fun r => { r with sub := 0x09 })).regs.sub := by
  refine ⟨by decide, by decide, ?_⟩
  intro i; cases i <;> decide

theorem witness_HeaderOnlyRequestBody :
    (.getServerItemReq ∈ headerOnlyRequests ∧ .request08Req ∈ headerOnlyRequests) ∧
    ((cut 11 (.payload .select) id).free ∧ (cut 11 (.payload .select) id).pos = .payload .select) ∧
    (cut 11 (.payload .listHeader) id).free ∧ (cut 11 (.payload .listHeader) id).pos = .payload .listHeader ∧
    (cut 11 (.payload .listHeader) id).regs.startOff.toNat + 7 + 4 ≤ (cut 11 (.payload .listHeader) id).regs.len.toNat := by
  decide

/-- COUNT = 1; COUNT = 0 with the error code as the last byte; COUNT = 0 with the error code just behind the buffer. -/
theorem witness_HeaderOnlyResponseBody :
    (.setServerItemRes ∈ headerOnlyResponses ∧ .response88Res ∈ headerOnlyResponses) ∧
    ∀ c ∈ [(12, 1), (12, 0), (11, 0)],
      (cut c.1 (.payload .select) (fun r => { r with count := BitVec.ofNat 16 c.2 })).pos = .payload .select ∧
      (cut c.1 (.payload .select) (fun r => { r with count := BitVec.ofNat 16 c.2 })).free := by decide

theorem witness_RecordListSelection :
    (.setServerItemReq ∈ recordRequests ∧ .setDatapointValueReq ∈ recordRequests) ∧
    (.getServerItemRes ∈ recordAnswers ∧ .serverItemInd ∈ recordAnswers) ∧
    ∀ c ∈ [(12, 1), (12, 0), (11, 0)],
      (cut c.1 (.payload .select) (fun r => { r with count := BitVec.ofNat 16 c.2 })).pos = .payload .select ∧
      (cut c.1 (.payload .select) (fun r => { r with count := BitVec.ofNat 16 c.2 })).free := by decide

/-- The filter byte as the last of the buffer, and just behind it. -/
theorem witness_FilterByte :
    ∀ n ∈ [12, 11], (cut n (.payload .select) id).pos = .payload .select ∧ (cut n (.payload .select) id).free := by decide

/-- The loop's end; a prefix of 3 bytes that just fits; one that misses a byte. -/
theorem witness_RecordLoopTest :
    ((.setServerItemReq, 3) ∈ prefixSizes ∧ (.getParameterByteRes, 1) ∈ prefixSizes) ∧
    (∀ rs ∈ [[1, 1, 1], ([1, 1] : List Byte)],
      (records rs).pos = .payload .record ∧ (records rs).free ∧
        (records rs).regs.idx.toNat < (records rs).regs.count.toNat) ∧
    (cut 14 (.payload .record) id).pos = .payload .record ∧ (cut 14 (.payload .record) id).free ∧
    (cut 14 (.payload .record) id).regs.count.toNat ≤ (cut 14 (.payload .record) id).regs.idx.toNat := by decide

/-- Server item records: every view's boundary, no data at all, and data that miss one byte. -/
theorem witness_ServerItemRecord :
    (∀ rs ∈ [[0x00, 0x02, 0x01, 0x21], [0x00, 0x0A, 0x01, 0x01], [0x00, 0x0D, 0x01, 0x02], [0x00, 0x14, 0x02, 0x11, 0x05],
        ([0x00, 0x05, 0x00] : List Byte)],
      (records rs).pos = .payload .record ∧ (records rs).free ∧
      (records rs).regs.idx.toNat < (records rs).regs.count.toNat ∧ 11 + 3 ≤ (records rs).regs.len.toNat ∧
      11 + 3 + ((records rs).byteAt 13).toNat ≤ (records rs).regs.len.toNat) ∧
    (records [0x00, 0x14, 0x02, 0x11]).free ∧ 11 + 3 ≤ (records [0x00, 0x14, 0x02, 0x11]).regs.len.toNat ∧
    ¬ 11 + 3 + ((records [0x00, 0x14, 0x02, 0x11]).byteAt 13).toNat ≤ (records [0x00, 0x14, 0x02, 0x11]).regs.len.toNat := by
  decide

/-- Datapoint value records of either form: a value that just fits, an empty one, one that misses a byte. -/
theorem witness_DatapointStateRecord :
    (∀ rs ∈ [[0x00, 0x01, 0x02, 0x01, 0x09], ([0x00, 0x01, 0x02, 0x00] : List Byte)],
      (records rs).pos = .payload .record ∧ (records rs).free ∧
      (records rs).regs.idx.toNat < (records rs).regs.count.toNat ∧ 11 + 4 ≤ (records rs).regs.len.toNat ∧
      11 + 4 + ((records rs).byteAt 14).toNat ≤ (records rs).regs.len.toNat) ∧
    (records [0x00, 0x01, 0x02, 0x01]).free ∧ 11 + 4 ≤ (records [0x00, 0x01, 0x02, 0x01]).regs.len.toNat ∧
    ¬ 11 + 4 + ((records [0x00, 0x01, 0x02, 0x01]).byteAt 14).toNat ≤ (records [0x00, 0x01, 0x02, 0x01]).regs.len.toNat := by
  decide

theorem witness_DatapointCommandRecord :
    (∀ rs ∈ [[0x00, 0x01, 0x03, 0x01, 0x01], ([0x00, 0x01, 0x03, 0x00] : List Byte)],
      (records rs).pos = .payload .record ∧ (records rs).free ∧
      (records rs).regs.idx.toNat < (records rs).regs.count.toNat ∧ 11 + 4 ≤ (records rs).regs.len.toNat ∧
      11 + 4 + ((records rs).byteAt 14).toNat ≤ (records rs).regs.len.toNat) ∧
    (records [0x00, 0x02, 0x01, 0x02, 0x0C]).free ∧ 11 + 4 ≤ (records [0x00, 0x02, 0x01, 0x02, 0x0C]).regs.len.toNat ∧
    ¬ 11 + 4 + ((records [0x00, 0x02, 0x01, 0x02, 0x0C]).byteAt 14).toNat ≤
      (records [0x00, 0x02, 0x01, 0x02, 0x0C]).regs.len.toNat := by decide

/-- A descriptor and a parameter byte at the end of the buffer. -/
theorem witness_FixedStrideRecords :
    ((records [0, 2, 7, 0x5F, 5]).pos = .payload .record ∧ (records [0, 2, 7, 0x5F, 5]).free ∧
      (records [0, 2, 7, 0x5F, 5]).regs.idx.toNat < (records [0, 2, 7, 0x5F, 5]).regs.count.toNat ∧
      (records [0, 2, 7, 0x5F, 5]).regs.cur.toNat + 5 ≤ (records [0, 2, 7, 0x5F, 5]).regs.len.toNat) ∧
    (records [0xAA]).free ∧ (records [0xAA]).regs.idx.toNat < (records [0xAA]).regs.count.toNat ∧
      (records [0xAA]).regs.cur.toNat + 1 ≤ (records [0xAA]).regs.len.toNat := by decide

/-- A text that just fits, an empty one, and one that misses a byte. -/
theorem witness_DescriptionStringRecord :
    (∀ rs ∈ [[0x00, 0x03, 0x41, 0x42, 0x43], ([0x00, 0x00] : List Byte)],
      (records rs).pos = .payload .record ∧ (records rs).free ∧
      (records rs).regs.idx.toNat < (records rs).regs.count.toNat ∧ 11 + 2 ≤ (records rs).regs.len.toNat ∧
      11 + 2 + ((records rs).byteAt 11 ++ (records rs).byteAt 12 : Word).toNat ≤ (records rs).regs.len.toNat) ∧
    (records [0x00, 0x03, 0x41, 0x42]).free ∧ 11 + 2 ≤ (records [0x00, 0x03, 0x41, 0x42]).regs.len.toNat ∧
    ¬ 11 + 2 + ((records [0x00, 0x03, 0x41, 0x42]).byteAt 11 ++ (records [0x00, 0x03, 0x41, 0x42]).byteAt 12 : Word).toNat ≤
      (records [0x00, 0x03, 0x41, 0x42]).regs.len.toNat := by decide

theorem witness_BodyFrame :
    (∃ t, exec .getServerItemReq (cut 9 (.payload .listHeader) id) = .next t) ∧
    ∃ t, exec .getParameterByteRes lastRecord = .next t := ⟨⟨_, rfl⟩, _, rfl⟩

theorem witness_BodyOutsidePayloadStops :
    State.reset.pos.phase ≠ .payloadDecoded ∧ (cut 9 (.header .leave) id).pos.phase ≠ .payloadDecoded := by decide

/-- The configuration of a block before a record is the decided one. -/
theorem witness_decidedParams : (records [0x00, 0x0D, 0x01, 0x02]).params = decidedParams := rfl

/-! ### Witnesses for the statements about a step -/

theorem witness_StepDoesPhaseWork : lastRecord.pos.busy = true ∧ lastRecord.free ∧ lastRecord.clear := by decide

theorem witness_StepRunsDecodedInstruction :
    lastRecord.pos = .payload .record ∧ lastRecord.free ∧ lastRecord.clear ∧
      (match decode [lastRecord.regs.sub] with | .ok (i, r) => decide (i = .getParameterByteRes ∧ r = []) | .error _ => false) =
        true := by decide

theorem witness_SinkAcceptsEvent :
    (pending lastRecord).pins.rst = false ∧ (pending lastRecord).pend.valid = true ∧
      (pending lastRecord).pins.evReady = true := by decide

/-- A sink that is never ready, while START is asserted and a byte is stored. -/
def stalled : State :=
  { pending (withPins lastRecord (fun p => { p with evReady := false })) with
    script := [{ Pins.idle with evReady := false, start := true, store := some ⟨0, 0x68⟩ }] }

theorem witness_SinkStallsBlock :
    stalled.pend.valid = true ∧ ∀ p ∈ stalled.pins :: stalled.script, p.evReady = false ∧ p.rst = false := by decide

theorem witness_TraceOnlyGrows :
    (lastRecord.pins.rst = false ∧ ∃ t, step lastRecord = .next t) ∧
    (pending lastRecord).waiting ≠ [] ∧ ∃ t, step (pending lastRecord) = .next t :=
  ⟨⟨rfl, _, rfl⟩, by decide, _, rfl⟩

/-- A step that adds one FIELD event. -/
theorem witness_EmittedEventsEncoded :
    ∃ t es, (cut 9 (.payload .listHeader) (fun r => { r with sub := 0x01 })).pins.rst = false ∧
      step (cut 9 (.payload .listHeader) (fun r => { r with sub := 0x01 })) = .next t ∧
      t.trace = (cut 9 (.payload .listHeader) (fun r => { r with sub := 0x01 })).trace ++ es ∧ es ≠ [] :=
  ⟨_, [fieldEvent 7 2 .startId 0x0101], rfl, rfl, by decide, by decide⟩

/-- START on 9 bytes, in IDLE. -/
def startState : State := withPins (cut 9 .idle id) (fun p => { p with start := true, lenIn := 9 })

theorem witness_StartBeginsTransaction :
    ∀ p ∈ [Pos.idle, Pos.done],
      ((cut 9 p id).pos = .idle ∨ (cut 9 p id).pos = .done) ∧
      (withPins (cut 9 p id) (fun q => { q with start := true })).pend.valid = false ∧
      (withPins (cut 9 p id) (fun q => { q with start := true })).pins.rst = false ∧
      (withPins (cut 9 p id) (fun q => { q with start := true })).pins.start = true := by decide

/-- A host that stores nothing, and the transaction's next steps: 9 bytes end in the second. -/
theorem witness_StartBeginsTransaction_quiet :
    (∀ p ∈ startState.pins :: startState.script, p.store = none) ∧
    ∃ t u, step startState = .next t ∧ t.unstable = false ∧ runsTo 0 t t ∧ t.pos.busy = true ∧ runsTo 1 t u :=
  ⟨by decide, _, _, rfl, by decide, rfl, rfl, rfl⟩

/-- R334: a store two steps after START that changes a byte below LEN while the transaction runs makes its reads any byte
from START on. A store at LEN, one of the byte that stands there, and one after DONE do not. -/
theorem test_start_unstable :
    [((true, 3, 7) : Bool × Fin 65535 × Byte), (true, 9, 7), (true, 3, 1), (false, 3, 7)].map (fun c =>
      after _ (·.unstable) (step { startState with
        script := [{ Pins.idle with wait := c.1 }, { Pins.idle with store := some ⟨c.2.1, c.2.2⟩ }] })) =
      [some true, some false, some false, some false] := by decide

theorem witness_StartIgnoredWhileBusy : lastRecord.pos.busy = true ∧ ∃ t, step lastRecord = .next t := ⟨rfl, _, rfl⟩

/-- RST while a transaction runs, START asserted with it. -/
theorem witness_ResetStep :
    (withPins (pending lastRecord) (fun q => { q with rst := true, start := true })).pins.rst = true ∧
    (withPins (pending lastRecord) (fun q => { q with rst := true, start := true })).pins.store = none := by decide

theorem witness_IdleAndDoneStable :
    ∀ p ∈ [Pos.idle, Pos.done],
      ((cut 9 p id).pos = .idle ∨ (cut 9 p id).pos = .done) ∧ (cut 9 p id).pend.valid = false ∧
      (cut 9 p id).pins.rst = false ∧ (cut 9 p id).pins.start = false := by decide

/-- BUSY in a running transaction, and in DONE without START. -/
theorem witness_StatusBitsOnlySet :
    (lastRecord.pins.rst = false ∧ lastRecord.pos.busy = true ∧ lastRecord.flag .busy = true ∧
      ∃ t, step lastRecord = .next t) ∧
    (cut 9 .done id).pins.start = false ∧ (cut 9 .done id).flag .recognized = true ∧
      ∃ t, step (cut 9 .done id) = .next t :=
  ⟨⟨rfl, rfl, rfl, _, rfl⟩, rfl, rfl, _, rfl⟩

/-- Without a store, and with one at the last address of the address space. -/
theorem witness_BlockNeverWritesBuffer :
    (lastRecord.pins.store = none ∧ ∃ t, step lastRecord = .next t) ∧
    (withPins lastRecord (fun q => { q with store := some ⟨65534, 7⟩ })).pins.store = some ⟨65534, 7⟩ ∧
    ∃ t, step (withPins lastRecord (fun q => { q with store := some ⟨65534, 7⟩ })) = .next t :=
  ⟨⟨rfl, _, rfl⟩, rfl, _, rfl⟩

theorem witness_PhaseTransitions :
    (∃ t, step lastRecord = .next t) ∧ ∃ t, step (withPins lastRecord (fun q => { q with rst := true })) = .next t :=
  ⟨⟨_, rfl⟩, _, rfl⟩

theorem witness_ResetValues :
    (withPins lastRecord (fun q => { q with rst := true })).pins.rst = true ∧
      (withPins lastRecord (fun q => { q with rst := true })).pins.store = none := by decide

theorem witness_ResultPortReads : State.reset.busyPort = false ∧ lastRecord.busyPort = true := by decide

/-! ### Witnesses for the statements about the invariant -/

/-- A list header that ends at LEN, with a list kind's sub-service: the invariant's states are not the reset state
alone. -/
def midBody : State :=
  board [0x68, 6, 6, 0x68, 0xF3, 0xF0, 0x81, 0, 1, 0, 1, 0x00, 0x05, 0x00] (.payload (.lead 0)) (fun r =>
    { r with
      dlen := 6, ctrl := 0xF3, toff := 11, sub := 0x81, kind := 4, count := 1, startId := 1, cur := 11
      status := setFlag (setFlag (setFlag r.status .subValid) .startIdValid) .countValid })

theorem midBody_inv : Inv midBody where
  buffer := by decide
  reserved := by decide
  busyBit := by decide
  doneBit := by decide
  shortBit := by decide
  sumBit := by decide
  scan := by decide
  kind := by decide
  muxed := by decide
  quiet := by decide
  counted := by decide
  bounded := by decide
  cursor := by decide
  events := by
    intro w hw
    have e : midBody.waiting = [] := by decide
    rw [e] at hw
    cases hw
  placed := by
    refine ⟨⟨by decide, by decide, by decide, by decide⟩, ?_, by unfold TrailerSet; decide,
      by unfold NotCompared; decide, by decide, ?_⟩
    · intro _ b h
      have e : Memory.read midBody.buf (midBody.frameStart + 4) = some 0xF3 := by decide
      rw [e] at h
      cases h
      decide
    intro sh h
    have e : midBody.shape = some
        { size := 3, lead := [⟨0, 2, .siId, []⟩, ⟨2, 1, .siLength, []⟩],
          lenField := some (2, 1), varTag := some .siData, typed := true } := by decide
    rw [e] at h
    cases h
    decide

theorem midBody_absent : AbsentReadsZero midBody :=
  ⟨by decide, by decide, by decide, by decide, by decide, by decide, by decide, by decide⟩

theorem witness_InvariantKept : Inv midBody ∧ ∃ t, step midBody = .next t := ⟨midBody_inv, _, rfl⟩

theorem witness_InvariantNeverStops : Inv midBody := midBody_inv

theorem witness_AbsentRegistersReadZero : Inv midBody ∧ AbsentReadsZero midBody ∧ ∃ t, step midBody = .next t :=
  ⟨midBody_inv, midBody_absent, _, rfl⟩

theorem witness_EveryTransactionEnds : Inv midBody ∧ midBody.settles ∧ midBody.pos.busy = true :=
  ⟨midBody_inv, by decide, rfl⟩

/-! ### Witnesses for the statements about a whole transaction -/

/-- A transaction on 9 bytes: START in the first step, DONE after the second. -/
def shortRun : State := withPins (cut 9 .idle (fun _ => Regs.reset)) (fun p => { p with start := true, lenIn := 9 })

theorem witness_RunsRefineDecode :
    (shortRun.pos = .idle ∧ shortRun.free ∧ shortRun.pins.start = true ∧
      (∀ p ∈ shortRun.pins :: shortRun.script, p.quiet) ∧ shortRun.backed shortRun.pins.lenIn.toNat) ∧
    ∃ t, runsTo 2 shortRun t ∧ t.pos = .done ∧
      ∀ k u, 0 < k → k < 2 → runsTo k shortRun u → u.pos.busy = true := by
  refine ⟨by decide, _, rfl, by decide, ?_⟩
  intro k u h1 h2 h
  obtain rfl : k = 1 := by omega
  have e : after _ (fun t => t.pos.busy) (Host.Core.run Sys2Proof.core 1 shortRun) = some true := by decide
  rw [h] at e
  simpa [after] using e

/-- Two buffers that agree on their 9 bytes and differ behind them. -/
theorem witness_OutcomeDependsOnBuffer :
    (∀ a, a < (9 : Word).toNat → (fun k => if k < 9 then (0x68 : Byte) else 1) a = (fun _ => (0x68 : Byte)) a) ∧
    (fun k => if k < 9 then (0x68 : Byte) else 1) 9 ≠ (fun _ => (0x68 : Byte)) 9 ∧
    { decidedParams with dpState := { pDpStateLayout with valid := ⟨7, 7⟩ } } ≠ decidedParams ∧
    { decidedParams with dpState := { pDpStateLayout with valid := ⟨7, 7⟩ } }.siType = decidedParams.siType := by decide

/-- The bytes of a list as a buffer. -/
def bytesOf (bs : List Byte) (a : Nat) : Byte := bs.getD a 0

theorem witness_NotRecognizedIsSilent :
    getFlag (decodeTransaction decidedParams (bytesOf []) 10).regs.status .recognized = false ∧ (9 : Word).toNat < 10 := by decide

/-- The example of R151: E7 is the sum of F3 F0 01 00 01 00 02, T = 11 < LEN = 13. -/
theorem witness_ChecksumRoundTrip :
    ∃ (b : Nat → Byte) (n : Word),
      getFlag (decodeTransaction decidedParams b n).regs.status .recognized = true ∧ (decodeTransaction decidedParams b n).regs.toff.toNat < n.toNat ∧
      (b (decodeTransaction decidedParams b n).regs.toff.toNat).toNat =
        ((List.range ((decodeTransaction decidedParams b n).regs.toff.toNat - ((decodeTransaction decidedParams b n).regs.startOff.toNat + 4))).map
          (fun k => (b ((decodeTransaction decidedParams b n).regs.startOff.toNat + 4 + k)).toNat)).sum % 256 :=
  ⟨bytesOf [0x68, 6, 6, 0x68, 0xF3, 0xF0, 1, 0, 1, 0, 2, 0xE7, 0x16], 13, by decide⟩

/-- The same frame cut at T = LEN = 11. -/
theorem witness_AbsentChecksum :
    getFlag (decodeTransaction decidedParams (bytesOf [0x68, 6, 6, 0x68, 0xF3, 0xF0, 1, 0, 1, 0, 2]) 11).regs.status .recognized = true ∧
    11 ≤ (decodeTransaction decidedParams (bytesOf [0x68, 6, 6, 0x68, 0xF3, 0xF0, 1, 0, 1, 0, 2]) 11).regs.toff.toNat := by decide

theorem witness_DlenZeroMismatches :
    getFlag (decodeTransaction decidedParams (bytesOf [0x68, 0, 0, 0x68, 0xF3, 0xF0, 1, 0, 1, 0]) 10).regs.status .recognized = true ∧
    (decodeTransaction decidedParams (bytesOf [0x68, 0, 0, 0x68, 0xF3, 0xF0, 1, 0, 1, 0]) 10).regs.dlen = 0 := by decide

/-- A parameter byte record that ends with the buffer: one record done, FIELD events emitted. -/
theorem witness_EventsInsideBuffer :
    (decodeTransaction decidedParams (bytesOf [0x68, 8, 8, 0x68, 0xF3, 0xF0, 0x87, 0, 0, 0, 1, 0xAA]) 12).events ≠ [] := by decide

theorem witness_RecordsBounded :
    0 < (decodeTransaction decidedParams (bytesOf [0x68, 8, 8, 0x68, 0xF3, 0xF0, 0x87, 0, 0, 0, 1, 0xAA]) 12).regs.recDone.toNat ∧
    getFlag (decodeTransaction decidedParams (bytesOf [0x68, 8, 8, 0x68, 0xF3, 0xF0, 0x87, 0, 0, 0, 1, 0xAA]) 12).regs.status
      .recognized = true := by decide

/-- Both diagnostics in one transaction. -/
theorem witness_DiagnosticsExactly :
    [StatusBit.recognized, .complete, .csumChecked, .csumOk].map
      (getFlag (decodeTransaction decidedParams (bytesOf [0x68, 0, 0, 0x68, 0xF3, 0xF0, 1, 0, 1, 0]) 10).regs.status) =
      [true, false, true, false] := by decide

end Sys2Proof.Tests
end

section
/-!
SUPPORT. What a step under RST does, said once (70_reset_and_hazards.md R330, R331), and the reset values of 10_state.md
R43 as a use of it.
-/

namespace Sys2Proof.Machine

/-- RST comes before everything else, whether a transaction runs or not (R331). -/
theorem cycle_of_rst (s : State) (hrst : s.pins.rst = true) : cycle s = .next s.resetBlock := by
  cases hbusy : s.pos.busy with
  | true => rw [cycle_of_busy s hbusy, busyCycle, if_pos hrst]
  | false => simp only [cycle, hbusy, hrst, Bool.false_eq_true, if_false, if_true]

/-- A step under RST: the host's store still lands, the block is reset, the host's next inputs take their place. -/
theorem step_of_rst (s : State) (hrst : s.pins.rst = true) : step s = .next s.hostStore.resetBlock.elapse :=
  (step_next s _).2 ⟨_, cycle_of_rst s.hostStore (by simpa using hrst), rfl⟩

/-- Reset itself does not touch the buffer: a step under RST leaves it as the host's store does. -/
theorem resetStep_buf (s : State) : s.hostStore.resetBlock.elapse.buf = s.hostStore.buf := by simp

/-- Settles O46: the values of R43 are those of the reset state by definition, and a step under RST answers the reset
block (`step_of_rst`), whose registers, phase and PEND are the same. -/
theorem resetValues : Obligations.ResetValues := by
  refine ⟨rfl, rfl, rfl, fun s hrst => ⟨_, step_of_rst s hrst, ?regs, ?phase, ?pend, fun hstore => ?buf⟩⟩
  case regs => rw [State.elapse_regs, State.resetBlock_regs]; rfl
  case phase => rw [State.elapse_pos, State.resetBlock_pos]; rfl
  case pend => rw [State.elapse_pend, State.resetBlock_pend]; rfl
  case buf => rw [resetStep_buf, State.hostStore_of_none s hstore]

end Sys2Proof.Machine
end

section
/-!
SUPPORT. The plain sum of a range of bytes as a natural number (40_checksum.md R120), and the checksum engine's statement as a
use of it.
-/

namespace Sys2Proof.Machine

/-- The specification's sum of bytes, read as a number: the true sum of the n byte values, mod 256 (R120). -/
theorem toNat_sumOf (b : Nat → Byte) (a n : Nat) :
    (sumOf b a n).toNat = ((List.range n).map (fun k => (b (a + k)).toNat)).sum % 256 := by
  induction n generalizing a with
  | zero => rfl
  | succ n ih =>
    have hshift : (fun k => (b (a + (k + 1))).toNat) = fun k => (b (a + 1 + k)).toNat := by
      funext k; rw [Nat.add_right_comm, Nat.add_assoc]
    calc (sumOf b a (n + 1)).toNat
        = ((b a).toNat + ((List.range n).map (fun k => (b (a + 1 + k)).toNat)).sum % 256) % 256 := by
          rw [sumOf, BitVec.toNat_add, ih]
      _ = ((List.range (n + 1)).map (fun k => (b (a + k)).toNat)).sum % 256 := by
          rw [Nat.add_mod_mod, List.range_succ_eq_map, List.map_cons, List.map_map, List.sum_cons, ← hshift]
          rfl

/-- The empty range reads nothing, so its sum is 0 wherever it lies (R120). -/
theorem State.checksum_empty (s : State) (a : Nat) : s.checksum a a = .ok 0 := by
  rw [State.checksum, Nat.sub_self, State.sumFrom]

/-- Settles O11: inside the buffer the engine answers `sumOf` (`State.checksum_eq`), whose value is the true sum mod 256
(`toNat_sumOf`); the worked example is the range of three bytes. -/
theorem checksumIsModularSum : Obligations.ChecksumIsModularSum := by
  refine ⟨fun s lo hi hle hlen => ?range, State.checksum_empty, fun s a hlen h0 h1 h2 => ?worked⟩
  case range => exact ⟨_, State.checksum_eq s lo hi hle hlen, toNat_sumOf _ _ _⟩
  case worked =>
    have hsum : sumOf s.byteAt a 3 = 0xF3 + (0xF0 + (0x85 + 0)) := by simp only [sumOf, h0, h1, h2]
    rw [State.checksum_eq s a (a + 3) (Nat.le_add_right a 3) hlen, Nat.add_sub_cancel_left, hsum]
    rfl

end Sys2Proof.Machine
end

section
/-!
SUPPORT. The units of the trailer phase never fault, because each reads its byte behind its guard (20_memory.md R62), and
the trailer's fields (42_integrity.md R154, R156, R157) as a use of it.
-/

namespace Sys2Proof.Machine

/-- What the trailer's unit at the position answers is the next state of TRAILER_CHECKED's work (45_orchestration.md
R271). -/
theorem workUnit_of_trailerUnit {s t : State} {p : TrailerPos} (hpos : s.pos = .trailer p)
    (hunit : trailerUnit p s = .ok t) : workUnit s = .next t := by
  simp only [workUnit, hpos, hunit, outcomeOf]

/-- The declared byte is read only where it is present, so its unit never faults. -/
theorem declaredUnit_answers (s : State) : ∃ t, declaredUnit s = .ok t := by
  simp only [declaredUnit]
  split
  next hfits => rw [State.readByte_of_lt _ _ ((State.fits_iff _ _ _).1 hfits)]; exact ⟨_, rfl⟩
  next => exact ⟨_, rfl⟩

/-- The end marker is read only where it is present, so its unit never faults. -/
theorem endMarkUnit_answers (s : State) : ∃ t, endMarkUnit s = .ok t := by
  simp only [endMarkUnit]
  split
  next hfits => rw [State.readByte_of_lt _ _ ((State.fits_iff _ _ _).1 hfits)]; exact ⟨_, rfl⟩
  next => exact ⟨_, rfl⟩

/-- Settles O13: the two field units answer (`declaredUnit_answers`, `endMarkUnit_answers`), what they answer depends only
on whether the byte lies below LEN (`declaredUnit_ok`, `endMarkUnit_ok`), and on the empty event port emitting the field
is offering it (`State.emit_of_free`); the last unit enters DONE. -/
theorem trailerFields : Obligations.TrailerFields := by
  refine ⟨fun s hpos hfree => ?declared, fun s hpos hfree => ?endMark, fun s hpos => ?leave⟩
  case declared =>
    obtain ⟨t, hunit⟩ := declaredUnit_answers s
    refine (workUnit_of_trailerUnit hpos hunit).trans (congrArg Host.Outcome.next ?_)
    obtain ⟨hpresent, rfl⟩ | ⟨habsent, rfl⟩ := declaredUnit_ok s t hunit
    · refine (State.emit_of_free _ _ ?port).trans (if_pos hpresent).symm
      case port => exact hfree
    · exact (if_neg (Nat.not_lt.2 habsent)).symm
  case endMark =>
    obtain ⟨t, hunit⟩ := endMarkUnit_answers s
    refine (workUnit_of_trailerUnit hpos hunit).trans (congrArg Host.Outcome.next ?_)
    obtain ⟨hpresent, rfl⟩ | ⟨habsent, rfl⟩ := endMarkUnit_ok s t hunit
    · refine (State.emit_of_free _ _ ?port).trans (if_pos hpresent).symm
      case port => exact hfree
    · exact (if_neg (Nat.not_lt.2 habsent)).symm
  case leave => exact workUnit_of_trailerUnit hpos rfl

end Sys2Proof.Machine
end

section
/-!
SUPPORT. What the units of a body answer, as equations: the list header, the selection, the error code and the filter
byte (44_record_streams.md R201-R204, R217), and the two tests of the record loop (R206, R207).
-/

namespace Sys2Proof.Machine

/-! ### Reads behind a guard: a guarded unit never faults (00_scope.md R13, 20_memory.md R62) -/

theorem listHeaderUnit_eq (m : BodyCfg) (s : State) :
    listHeaderUnit m s = .ok (
      if s.payloadStart + 2 + 2 ≤ s.regs.len.toNat then
        ((s.setRegs { s.regs with
          startId := beWord s.byteAt (s.payloadStart + 2)
          status := setFlag s.regs.status .startIdValid }).goto (.payload .countField)).emit
            [fieldEvent (s.payloadStart + 2) 2 (listHeaderTag m.idxhdr) (beWord s.byteAt (s.payloadStart + 2))]
      else s.truncateBody) := by
  by_cases hlen : s.payloadStart + 2 + 2 ≤ s.regs.len.toNat
  · simp only [listHeaderUnit, (s.fits_iff _ 2).2 hlen, s.memRead_two _ hlen, hlen, if_true]
  · simp only [listHeaderUnit, mt (s.fits_iff _ 2).1 hlen, hlen, Bool.false_eq_true, if_false]

theorem countUnit_eq (s : State) :
    countUnit s = .ok (
      if s.payloadStart + 4 + 2 ≤ s.regs.len.toNat then
        ((s.setRegs { s.regs with
          count := beWord s.byteAt (s.payloadStart + 4)
          status := setFlag s.regs.status .countValid }).goto (.payload .select)).emit
            [fieldEvent (s.payloadStart + 4) 2 .count (beWord s.byteAt (s.payloadStart + 4))]
      else s.truncateBody) := by
  by_cases hlen : s.payloadStart + 4 + 2 ≤ s.regs.len.toNat
  · simp only [countUnit, (s.fits_iff _ 2).2 hlen, s.memRead_two _ hlen, hlen, if_true]
  · simp only [countUnit, mt (s.fits_iff _ 2).1 hlen, hlen, Bool.false_eq_true, if_false]

theorem errorCodeWork_eq (s : State) :
    errorCodeWork s = .ok (
      if s.regs.cur.toNat < s.regs.len.toNat then
        ((s.setRegs { s.regs with
          errcode := s.byteAt s.regs.cur.toNat
          status := setFlag s.regs.status .errcodeValid }).endBody).emit
            [fieldEvent s.regs.cur.toNat 1 .errorCode ((s.byteAt s.regs.cur.toNat).setWidth 16)]
      else s.truncateBody) := by
  by_cases hlen : s.regs.cur.toNat < s.regs.len.toNat
  · simp only [errorCodeWork, (s.fits_iff _ 1).2 hlen, s.readByte_of_lt _ hlen, hlen, if_true]
  · simp only [errorCodeWork, mt (s.fits_iff _ 1).1 hlen, hlen, Bool.false_eq_true, if_false]

theorem filterWork_eq (s : State) :
    filterWork s = .ok (
      if s.regs.cur.toNat < s.regs.len.toNat then
        s.endBody.emit [fieldEvent s.regs.cur.toNat 1 .dpFilter ((s.byteAt s.regs.cur.toNat).setWidth 16)]
      else s.truncateBody) := by
  by_cases hlen : s.regs.cur.toNat < s.regs.len.toNat
  · simp only [filterWork, (s.fits_iff _ 1).2 hlen, s.readByte_of_lt _ hlen, hlen, if_true]
  · simp only [filterWork, mt (s.fits_iff _ 1).1 hlen, hlen, Bool.false_eq_true, if_false]

/-- On an empty event port truncation emits nothing: it sets TRUNC and ends the body (R205, R214). -/
theorem State.truncateBody_of_free (s : State) (hfree : s.free) :
    s.truncateBody = { s with pos := .payload .leave, regs := s.regs.flagged .trunc } := by
  rw [State.truncateBody, State.raise_truncated_of_empty s hfree.2]; rfl

/-! ### The selection -/

/-- The registers after R202's `CUR <- P+6; IDX <- 0`. -/
def Regs.selected (g : Regs) : Regs := { g with cur := BitVec.ofNat 16 (g.startOff.toNat + 11), idx := 0 }

/-- P+6 does not wrap: the frame start is below 8 (R14). -/
theorem Regs.selected_cur_toNat (g : Regs) : g.selected.cur.toNat = g.startOff.toNat + 11 := by
  have hlt : g.startOff.toNat < 8 := g.startOff.isLt
  rw [Regs.selected, BitVec.toNat_ofNat, Nat.mod_eq_of_lt (by omega)]

/-- R203 right after the selection: the byte at P+6 is the error code, or it is truncated. -/
theorem errorCodeWork_selected (s : State) (hfree : s.free) :
    errorCodeWork (s.setRegs s.regs.selected) = .ok (
      if s.regs.startOff.toNat + 11 < s.regs.len.toNat then
        State.offering { s with
          pos := .payload .leave
          regs := { s.regs.selected with
            errcode := s.byteAt (s.regs.startOff.toNat + 11), status := setFlag s.regs.status .errcodeValid } }
          [fieldEvent (s.regs.startOff.toNat + 11) 1 .errorCode
            ((s.byteAt (s.regs.startOff.toNat + 11)).setWidth 16)]
      else { s with pos := .payload .leave, regs := s.regs.selected.flagged .trunc }) := by
  rw [errorCodeWork_eq, State.setRegs_regs, Regs.selected_cur_toNat]
  exact congrArg Except.ok
    (if_congr Iff.rfl (State.emit_of_free _ _ hfree) (State.truncateBody_of_free _ hfree))

/-- R217 right after the selection: the byte at P+6 is the filter byte, or it is truncated. -/
theorem filterWork_selected (s : State) (hfree : s.free) :
    filterWork (s.setRegs s.regs.selected) = .ok (
      if s.regs.startOff.toNat + 11 < s.regs.len.toNat then
        State.offering { s with pos := .payload .leave, regs := s.regs.selected }
          [fieldEvent (s.regs.startOff.toNat + 11) 1 .dpFilter
            ((s.byteAt (s.regs.startOff.toNat + 11)).setWidth 16)]
      else { s with pos := .payload .leave, regs := s.regs.selected.flagged .trunc }) := by
  rw [filterWork_eq, State.setRegs_regs, Regs.selected_cur_toNat]
  exact congrArg Except.ok
    (if_congr Iff.rfl (State.emit_of_free _ _ hfree) (State.truncateBody_of_free _ hfree))

/-- R215: HDR_REQ ends the body. -/
theorem selectUnit_of_hdrReq (m : BodyCfg) (s : State) (hkind : m.kind = .hdrReq) :
    selectUnit m s = .ok (s.setRegs s.regs.selected).endBody := by
  simp only [selectUnit, hkind]; rfl

/-- R216: HDR_RES takes the error code where COUNT = 0, and ends the body otherwise. -/
theorem selectUnit_of_hdrRes (m : BodyCfg) (s : State) (hkind : m.kind = .hdrRes) :
    selectUnit m s =
      if s.regs.count = 0 then errorCodeWork (s.setRegs s.regs.selected)
      else .ok (s.setRegs s.regs.selected).endBody := by
  simp only [selectUnit, hkind]; rfl

/-- R217: HDR_FILTER takes the filter byte whatever COUNT is. -/
theorem selectUnit_of_hdrFilter (m : BodyCfg) (s : State) (hkind : m.kind = .hdrFilter) :
    selectUnit m s = filterWork (s.setRegs s.regs.selected) := by
  simp only [selectUnit, hkind]; rfl

theorem kind_of_headerOnlyRequest : ∀ i ∈ headerOnlyRequests, (dispatch i.code).kind = .hdrReq := by decide

theorem kind_of_headerOnlyResponse : ∀ i ∈ headerOnlyResponses, (dispatch i.code).kind = .hdrRes := by decide

/-- Of the five sub-services of R215 only 0x07 has a start index (43_dispatch.md R170). -/
theorem idxhdr_of_headerOnlyRequest :
    ∀ i ∈ headerOnlyRequests, (dispatch i.code).idxhdr = decide (i = .getParameterByteReq) := by decide

/-! ### The record loop's tests -/

/-- The positions inside the record loop (R206). -/
def BodyPos.inRecordLoop : BodyPos → Bool
  | .record | .lead _ | .varPart | .view _ | .advance _ => true
  | .listHeader | .countField | .select | .leave => false

/-- Inside the record loop of a list kind a body's unit is the loop's unit for the kind's shape (R204, R206). -/
theorem bodyAt_inRecordLoop {i : Instr} {s : State} {sh : Shape} {p : BodyPos}
    (hshape : shapeOf s.params (kindTable i) = some sh) (hloop : p.inRecordLoop = true) :
    bodyAt (dispatch i.code) p s = recordLoopUnit sh p s := by
  cases p with
  | listHeader | countField | select | leave => cases hloop
  | record | lead | varPart | view | advance => simp only [bodyAt, dispatch_kind, hshape]

/-- R206, R207, R210: the loop ends at IDX = COUNT; else the whole leading part must fit. -/
theorem recordUnit_of_free (sh : Shape) (s : State) (hfree : s.free) :
    recordUnit sh s =
      if s.regs.count.toNat ≤ s.regs.idx.toNat then { s with pos := .payload .leave }
      else if s.regs.cur.toNat + sh.size ≤ s.regs.len.toNat then { s with pos := .payload (.lead 0) }
      else { s with pos := .payload .leave, regs := s.regs.flagged .trunc } := by
  by_cases hend : s.regs.count.toNat ≤ s.regs.idx.toNat
  · rw [if_pos hend, recordUnit, if_neg (Nat.not_lt.2 hend)]; rfl
  · rw [if_neg hend, recordUnit, if_pos (Nat.not_le.1 hend)]
    exact if_congr (s.fits_iff _ _) rfl (s.truncateBody_of_free hfree)

/-- The table of R206: each sub-service that carries records has a shape, whose leading part has the tabled size,
whatever the configuration. -/
theorem shape_of_prefixSizes (c : Params) {i : Instr} {h : Nat} (hmem : (i, h) ∈ prefixSizes) :
    ∃ sh, shapeOf c (kindTable i) = some sh ∧ sh.size = h := by
  have htable : ∀ x ∈ prefixSizes, (shapeOf c (kindTable x.1)).map Shape.size = some x.2 := by
    simp [prefixSizes, kindTable, shapeOf]
  exact Option.map_eq_some_iff.1 (htable (i, h) hmem)

/-- Settles O24: at the loop test the meaning is the loop's unit for the shape of R206 (`shape_of_prefixSizes`), whose
three outcomes `recordUnit_of_free` gives. -/
theorem recordLoopTest : Obligations.RecordLoopTest := by
  intro i h s hmem hpos hfree
  obtain ⟨sh, hshape, rfl⟩ := shape_of_prefixSizes s.params hmem
  rw [exec_at i s _ hpos, bodyAt_inRecordLoop hshape rfl]
  exact congrArg Host.Outcome.next (recordUnit_of_free sh s hfree)

/-- Settles O21: the selection of HDR_RES (`selectUnit_of_hdrRes`) ends the body where COUNT ≠ 0, and else is the
error code's work at P+6 (`errorCodeWork_selected`). -/
theorem headerOnlyResponseBody : Obligations.HeaderOnlyResponseBody := by
  intro i s hmem hpos hfree a g
  rw [exec_at i s _ hpos, bodyAt, selectUnit_of_hdrRes _ s (kind_of_headerOnlyResponse i hmem)]
  by_cases hcount : s.regs.count = 0
  case pos =>
    rw [if_pos hcount, if_neg (not_not.2 hcount), errorCodeWork_selected s hfree]
    rfl
  case neg =>
    rw [if_neg hcount, if_pos hcount]
    rfl

/-- Settles O23: the selection of HDR_FILTER does not look at COUNT (`selectUnit_of_hdrFilter`); it is the filter byte's
work at P+6 (`filterWork_selected`). -/
theorem filterByte : Obligations.FilterByte := by
  intro s hpos hfree a g
  rw [exec_at _ s _ hpos, bodyAt, selectUnit_of_hdrFilter _ s rfl, filterWork_selected s hfree]
  rfl

end Sys2Proof.Machine
end

section
/-!
SUPPORT. A body run piece by piece: each unit appends to what the units before it have done. The list header and one
record of any list kind as such runs (44_record_streams.md R201, R202, R206-R209), and the bodies of R215 and R232 as a
use of them.
-/

namespace Sys2Proof.Machine

/-! ### One unit more -/

/-- The body of `i` leads from `s` to a position, with these registers and these events accepted. -/
abbrev BodyLeads (i : Instr) (s : State) (p : BodyPos) (g : Regs) (es : List Wires) : Prop :=
  ∃ t, bodyReaches i s t ∧ BodyRan s t p g es

theorem bodyLeads_refl {i : Instr} {s : State} {p : BodyPos} (hpos : s.pos = .payload p) (hfree : s.free) :
    BodyLeads i s p s.regs [] :=
  ⟨s, bodyReaches_refl i s, hpos, rfl, hfree, (List.append_nil _).symm, SameSurroundings.refl s⟩

/-- The states reached so far read the same bytes. -/
theorem BodyRan.byteAt_eq {s t : State} {p : BodyPos} {g : Regs} {es : List Wires} (h : BodyRan s t p g es) :
    t.byteAt = s.byteAt :=
  funext h.around.byteAt

/-- One unit more, which sets registers, moves and emits, and the sink accepting what it emits. -/
theorem BodyLeads.unit {i : Instr} {s : State} {p q : BodyPos} {g k : Regs} {es fs : List Wires}
    (hrun : BodyLeads i s p g es)
    (hunit : ∀ t, BodyRan s t p g es →
      bodyAt (dispatch i.code) p t = .ok (((t.setRegs k).goto (.payload q)).emit fs)) :
    BodyLeads i s q k (es ++ fs) := by
  refine bodyRan_then hrun fun t ht => bodyRan_of_exec ht.port ?_
  rw [exec_at i t p ht.pos, hunit t ht]
  exact congrArg Host.Outcome.next (State.emit_of_free _ _ ht.port)

/-- One unit more, which emits nothing. -/
theorem BodyLeads.silentUnit {i : Instr} {s : State} {p q : BodyPos} {g k : Regs} {es : List Wires}
    (hrun : BodyLeads i s p g es)
    (hunit : ∀ t, BodyRan s t p g es → bodyAt (dispatch i.code) p t = .ok ((t.setRegs k).goto (.payload q))) :
    BodyLeads i s q k es := by
  rw [← List.append_nil es]
  refine hrun.unit fun t ht => (hunit t ht).trans (congrArg Except.ok ?_)
  exact (State.emit_nil_of_free ((t.setRegs k).goto (.payload q)) ht.port.2).symm

/-! ### The list header -/

/-- R201: a start field that fits: START_ID with its VALID bit, and its field. -/
theorem bodyLeads_startField {i : Instr} {s : State} (hpos : s.pos = .payload .listHeader) (hfree : s.free)
    (hfits : s.payloadStart + 4 ≤ s.regs.len.toNat) :
    BodyLeads i s .countField
      { s.regs with
        startId := beWord s.byteAt (s.payloadStart + 2), status := setFlag s.regs.status .startIdValid }
      [fieldEvent (s.payloadStart + 2) 2 (listHeaderTag (dispatch i.code).idxhdr)
        (beWord s.byteAt (s.payloadStart + 2))] := by
  refine (bodyLeads_refl hpos hfree).unit fun t ht => ?_
  rw [bodyAt, listHeaderUnit_eq, State.payloadStart, State.frameStart, ht.regs, ht.byteAt_eq]
  exact congrArg Except.ok (if_pos hfits)

/-- R201, R202: a list header that fits, for every sub-service: both fields, START_ID and COUNT with their VALID
bits. -/
theorem bodyLeads_listHeader {i : Instr} {s : State} (hpos : s.pos = .payload .listHeader) (hfree : s.free)
    (hfits : s.payloadStart + 6 ≤ s.regs.len.toNat) :
    BodyLeads i s .select
      { s.regs with
        startId := beWord s.byteAt (s.payloadStart + 2), count := beWord s.byteAt (s.payloadStart + 4)
        status := setFlag (setFlag s.regs.status .startIdValid) .countValid }
      [fieldEvent (s.payloadStart + 2) 2 (listHeaderTag (dispatch i.code).idxhdr)
          (beWord s.byteAt (s.payloadStart + 2)),
        fieldEvent (s.payloadStart + 4) 2 .count (beWord s.byteAt (s.payloadStart + 4))] := by
  refine (bodyLeads_startField hpos hfree (by omega)).unit fun t ht => ?_
  rw [bodyAt, countUnit_eq, State.payloadStart, State.frameStart, ht.regs, ht.byteAt_eq]
  exact congrArg Except.ok (if_pos hfits)

/-- Settles O20: the selection of HDR_REQ ends the body (`selectUnit_of_hdrReq`), and the whole body is the list header
(`bodyLeads_listHeader`) followed by it. -/
theorem headerOnlyRequestBody : Obligations.HeaderOnlyRequestBody := by
  intro i s hmem hfree a id n
  have hselect : ∀ t : State, bodyAt (dispatch i.code) .select t = .ok (t.setRegs t.regs.selected).endBody :=
    fun t => selectUnit_of_hdrReq _ t (kind_of_headerOnlyRequest i hmem)
  refine ⟨fun hpos => ?selection, fun hpos hfits => ?body⟩
  case selection => rw [exec_at i s _ hpos, hselect]; rfl
  case body =>
    have hbody := (bodyLeads_listHeader (i := i) hpos hfree hfits).silentUnit fun t ht => by
      rw [hselect, ht.regs]; rfl
    simp only [listHeaderTag, idxhdr_of_headerOnlyRequest i hmem, decide_eq_true_eq] at hbody
    exact hbody

/-! ### The units of the record loop -/

/-- A field of the leading part whose bytes are present (EMIT_PREFIX of R206). -/
theorem leadFieldUnit_of_le {f : LeadField} (k : Nat) {s : State} (hwidth : f.width = 1 ∨ f.width = 2)
    (hlen : s.regs.cur.toNat + f.off + f.width ≤ s.regs.len.toNat) :
    leadFieldUnit f k s = .ok ((s.goto (.payload (.lead (k + 1)))).emit
      (leadEvents f s.regs.cur.toNat (fieldValue s.byteAt (s.regs.cur.toNat + f.off) f.width))) := by
  simp only [leadFieldUnit, s.memRead_field _ _ hlen hwidth]

/-- Behind the leading part's guard the length field is read, so the variable part's length is `lengthAt` (R206, R207). -/
theorem variableLength_of_le {sh : Shape} {s : State}
    (hfield : ∀ o w, sh.lenField = some (o, w) → o + w ≤ sh.size ∧ (w = 1 ∨ w = 2))
    (hlen : s.regs.cur.toNat + sh.size ≤ s.regs.len.toNat) :
    variableLength sh s = .ok (lengthAt s.byteAt sh s.regs.cur.toNat) := by
  cases hlenField : sh.lenField with
  | none => simp only [variableLength, lengthAt, hlenField]
  | some field =>
    obtain ⟨hinside, hwidth⟩ := hfield field.1 field.2 hlenField
    have hread := s.memRead_field (s.regs.cur.toNat + field.1) field.2 (by omega) hwidth
    simp only [variableLength, lengthAt, hlenField, hread]

/-- R208, R213: the variable part's guard; RAW where it fits, truncated where it does not. -/
theorem variableUnit_of_length {sh : Shape} {s : State} {n : Nat} (hn : variableLength sh s = .ok n) :
    variableUnit sh s = .ok (
      if s.regs.cur.toNat + sh.size + n ≤ s.regs.len.toNat then
        (s.goto (.payload (.view n))).emit (variableEvents sh s.regs.cur.toNat n)
      else s.truncateBody) := by
  simp only [variableUnit, hn, State.fits_iff]
  split <;> rfl

/-- R225: over a record that is present the typed view emits `viewPart`, and nothing where no view applies. -/
theorem viewUnit_of_le {sh : Shape} {s : State} {n : Nat} (htyped : sh.typed = true → 2 ≤ sh.size)
    (hlen : s.regs.cur.toNat + sh.size + n ≤ s.regs.len.toNat) (hburst : s.burst = []) :
    viewUnit sh n s = .ok ((s.goto (.payload (.advance n))).emit
      (viewPart s.byteAt s.params.siType sh s.regs.cur.toNat n)) := by
  have hsilent : (s.goto (.payload (.advance n))).emit [] = s.goto (.payload (.advance n)) :=
    State.emit_nil_of_free _ hburst
  cases ht : sh.typed with
  | false => simp only [viewUnit, viewPart, ht, Bool.false_eq_true, if_false, hsilent]
  | true =>
    have hsize := htyped ht
    have hid := s.memRead_two s.regs.cur.toNat (by omega)
    cases hview : appliedView s.params.siType (beWord s.byteAt s.regs.cur.toNat).toNat n with
    | none => simp only [viewUnit, viewPart, ht, if_true, hid, hview, hsilent]
    | some v =>
      have hvalue := s.memRead_field _ n hlen (appliedView_width _ _ _ _ hview)
      simp only [viewUnit, viewPart, ht, if_true, hid, hview, hvalue]

/-- R209: the advance by the stride. -/
theorem advanceUnit_eq (sh : Shape) (n : Nat) (s : State) :
    advanceUnit sh n s = (s.setRegs (s.regs.advanced (sh.size + n))).goto (.payload .record) := by
  rw [advanceUnit, Regs.advanced, Nat.add_assoc]

/-! ### One record of a list kind -/

/-- Where the registers are as they were, writing them back changes nothing. -/
theorem BodyRan.setRegs_self {s t : State} {p : BodyPos} {g : Regs} {es : List Wires} (h : BodyRan s t p g es) :
    t.setRegs g = t := by
  rw [← h.regs]; rfl

/-- The shape is the configuration's, which no unit changes. -/
theorem BodyRan.bodyAt_loop {i : Instr} {s t : State} {sh : Shape} {p : BodyPos} {g : Regs} {es : List Wires}
    (h : BodyRan s t p g es) (hshape : shapeOf s.params (kindTable i) = some sh) (hloop : p.inRecordLoop = true) :
    bodyAt (dispatch i.code) p t = recordLoopUnit sh p t :=
  bodyAt_inRecordLoop (h.around.params ▸ hshape) hloop

section Record

variable {i : Instr} {s : State} {sh : Shape} {es : List Wires}

/-- EMIT_PREFIX from field k on: the fields that are left, in order (R206, R250). -/
theorem BodyLeads.leadFields (hshape : shapeOf s.params (kindTable i) = some sh)
    (hfits : s.regs.cur.toNat + sh.size ≤ s.regs.len.toNat) (fields : List LeadField) {k : Nat}
    (hfields : sh.lead.drop k = fields) (hrun : BodyLeads i s (.lead k) s.regs es) :
    BodyLeads i s .varPart s.regs (es ++ fields.flatMap fun f =>
      leadEvents f s.regs.cur.toNat (fieldValue s.byteAt (s.regs.cur.toNat + f.off) f.width)) := by
  induction fields generalizing k es with
  | nil =>
    have hend : sh.lead[k]? = none := List.getElem?_eq_none (List.drop_eq_nil_iff.1 hfields)
    rw [List.flatMap_nil, List.append_nil]
    refine hrun.silentUnit fun t ht => ?_
    rw [ht.bodyAt_loop hshape rfl, ht.setRegs_self]
    simp only [recordLoopUnit, hend]
  | cons f fields ih =>
    have hfield : sh.lead[k]? = some f := by rw [← Nat.add_zero k, ← List.getElem?_drop, hfields]; rfl
    obtain ⟨hlead, _, _, _⟩ := shapeOf_fields _ _ _ hshape
    obtain ⟨hinside, hwidth⟩ := hlead f (List.mem_of_getElem? hfield)
    have hnext : BodyLeads i s (.lead (k + 1)) s.regs (es ++
        leadEvents f s.regs.cur.toNat (fieldValue s.byteAt (s.regs.cur.toNat + f.off) f.width)) := by
      refine hrun.unit fun t ht => ?_
      rw [ht.bodyAt_loop hshape rfl, ht.setRegs_self]
      simp only [recordLoopUnit, hfield]
      rw [leadFieldUnit_of_le k hwidth (by rw [ht.regs]; omega), ht.regs, ht.byteAt_eq]
    rw [List.flatMap_cons, ← List.append_assoc]
    exact ih (by rw [← List.tail_drop, hfields, List.tail_cons]) hnext

/-- R206, R207: from the loop test a record whose leading part fits leads to its variable part, its leading
fields emitted. -/
theorem bodyLeads_recordPrefix (hshape : shapeOf s.params (kindTable i) = some sh) (hpos : s.pos = .payload .record)
    (hfree : s.free) (hleft : s.regs.idx.toNat < s.regs.count.toNat)
    (hfits : s.regs.cur.toNat + sh.size ≤ s.regs.len.toNat) :
    BodyLeads i s .varPart s.regs (leadPart s.byteAt sh s.regs.cur.toNat) := by
  have henter : BodyLeads i s (.lead 0) s.regs [] := by
    refine (bodyLeads_refl hpos hfree).silentUnit fun t ht => ?_
    rw [ht.bodyAt_loop hshape rfl, recordLoopUnit, recordUnit_of_free sh t ht.port, ht.regs,
      if_neg (Nat.not_le.2 hleft), if_pos hfits]
    rfl
  exact henter.leadFields hshape hfits sh.lead rfl

/-- What the variable part's unit answers behind the leading part's guard, for a variable part of length n (R208). -/
theorem BodyRan.variableUnit_eq {t : State} {n : Nat} (h : BodyRan s t .varPart s.regs es)
    (hshape : shapeOf s.params (kindTable i) = some sh) (hn : lengthAt s.byteAt sh s.regs.cur.toNat = n)
    (hprefix : s.regs.cur.toNat + sh.size ≤ s.regs.len.toNat) :
    bodyAt (dispatch i.code) .varPart t = .ok (
      if s.regs.cur.toNat + sh.size + n ≤ s.regs.len.toNat then
        (t.goto (.payload (.view n))).emit (variableEvents sh s.regs.cur.toNat n)
      else t.truncateBody) := by
  obtain ⟨_, hlenField, _, _⟩ := shapeOf_fields _ _ _ hshape
  have hlength : variableLength sh t = .ok n := by
    rw [variableLength_of_le hlenField (by rw [h.regs]; exact hprefix), h.regs, h.byteAt_eq, hn]
  rw [h.bodyAt_loop hshape rfl, recordLoopUnit, variableUnit_of_length hlength, h.regs]

/-- R206-R209, R213, R225: a record that is present as a whole: its leading fields, its variable part as RAW, its typed
view, and the advance by the stride. -/
theorem bodyLeads_record {n : Nat} (hshape : shapeOf s.params (kindTable i) = some sh)
    (hpos : s.pos = .payload .record) (hfree : s.free) (hleft : s.regs.idx.toNat < s.regs.count.toNat)
    (hn : lengthAt s.byteAt sh s.regs.cur.toNat = n)
    (hfits : s.regs.cur.toNat + sh.size + n ≤ s.regs.len.toNat) :
    BodyLeads i s .record (s.regs.advanced (sh.size + n))
      (leadPart s.byteAt sh s.regs.cur.toNat ++ variableEvents sh s.regs.cur.toNat n ++
        viewPart s.byteAt s.params.siType sh s.regs.cur.toNat n) := by
  obtain ⟨_, _, htyped, _⟩ := shapeOf_fields _ _ _ hshape
  have hprefix : s.regs.cur.toNat + sh.size ≤ s.regs.len.toNat := by omega
  have hraw : BodyLeads i s (.view n) s.regs
      (leadPart s.byteAt sh s.regs.cur.toNat ++ variableEvents sh s.regs.cur.toNat n) := by
    refine (bodyLeads_recordPrefix hshape hpos hfree hleft hprefix).unit fun t ht => ?_
    rw [ht.variableUnit_eq hshape hn hprefix, if_pos hfits, ht.setRegs_self]
  have hview : BodyLeads i s (.advance n) s.regs
      (leadPart s.byteAt sh s.regs.cur.toNat ++ variableEvents sh s.regs.cur.toNat n ++
        viewPart s.byteAt s.params.siType sh s.regs.cur.toNat n) := by
    refine hraw.unit fun t ht => ?_
    rw [ht.bodyAt_loop hshape rfl, recordLoopUnit, viewUnit_of_le htyped (by rw [ht.regs]; exact hfits) ht.port.2,
      ht.setRegs_self, ht.regs, ht.byteAt_eq, ht.around.params]
  refine hview.silentUnit fun t ht => ?_
  rw [ht.bodyAt_loop hshape rfl, recordLoopUnit, advanceUnit_eq, ht.regs]

/-- R208, R214: a record whose leading part is present and whose variable part is not: its leading fields, TRUNC, and the
end of the body; the record is not counted. -/
theorem bodyLeads_truncatedRecord {n : Nat} (hshape : shapeOf s.params (kindTable i) = some sh)
    (hpos : s.pos = .payload .record) (hfree : s.free) (hleft : s.regs.idx.toNat < s.regs.count.toNat)
    (hprefix : s.regs.cur.toNat + sh.size ≤ s.regs.len.toNat) (hn : lengthAt s.byteAt sh s.regs.cur.toNat = n)
    (hcut : ¬ s.regs.cur.toNat + sh.size + n ≤ s.regs.len.toNat) :
    BodyLeads i s .leave (s.regs.flagged .trunc) (leadPart s.byteAt sh s.regs.cur.toNat) := by
  refine (bodyLeads_recordPrefix hshape hpos hfree hleft hprefix).silentUnit fun t ht => ?_
  rw [ht.variableUnit_eq hshape hn hprefix, if_neg hcut, t.truncateBody_of_free ht.port, ht.regs]
  rfl

end Record

/-! ### The datapoint value record in command form -/

section CommandRecord

variable {conf : Params} {sh : Shape} (hshape : shapeOf conf .dpValueCmd = some sh) (b : Nat → Byte) (c : Nat)

include hshape

theorem lengthAt_command : lengthAt b sh c = (b (c + 3)).toNat := by
  cases hshape
  exact BitVec.toNat_setWidth_of_le (b := b (c + 3)) (by decide)

/-- R232, R233: the command byte whole, with no sub-field. -/
theorem leadPart_command :
    leadPart b sh c = [fieldEvent c 2 .dpId (beWord b c), fieldEvent (c + 2) 1 .dpCommand ((b (c + 2)).setWidth 16),
      fieldEvent (c + 3) 1 .dpLength ((b (c + 3)).setWidth 16)] := by
  cases hshape
  rfl

theorem variableEvents_command (n : Nat) : variableEvents sh c n = [rawEvent (c + 4) n .dpValue] := by
  cases hshape
  rfl

theorem viewPart_command (table : List (Nat × ViewType)) (n : Nat) : viewPart b table sh c n = [] := by
  cases hshape
  rfl

end CommandRecord

/-- Settles O27: the shape of 0x06 (R232) in the two ways a record can go: present as a whole (`bodyLeads_record`), or
with its value cut (`bodyLeads_truncatedRecord`). -/
theorem datapointCommandRecord : Obligations.DatapointCommandRecord := by
  intro s hpos hfree hleft c id n fixed hprefix
  obtain ⟨sh, hshape, hsize⟩ := shape_of_prefixSizes s.params (i := .setDatapointValueReq) (h := 4) (by decide)
  have hlength : lengthAt s.byteAt sh c = n := lengthAt_command hshape _ _
  have hlead : leadPart s.byteAt sh c = fixed := by
    rw [leadPart_command hshape, ← BitVec.ofNat_toNat 16 (s.byteAt (c + 3))]
    rfl
  split
  case isTrue hfits =>
    have hrecord := bodyLeads_record hshape hpos hfree hleft hlength (by rw [hsize]; exact hfits)
    rw [hsize, hlead, variableEvents_command hshape, viewPart_command hshape, List.append_nil] at hrecord
    exact hrecord
  case isFalse hcut =>
    rw [← hlead]
    exact bodyLeads_truncatedRecord hshape hpos hfree hleft (by rw [hsize]; exact hprefix) hlength
      (by rw [hsize]; exact hcut)

end Sys2Proof.Machine
end

section
/-!
SUPPORT. What a step does while the sink withholds EV_READY (45_orchestration.md R275).
-/

namespace Sys2Proof.Machine

/-- The sink accepts nothing and RST stays low, in this step and in every step of the script. -/
def State.withheld (s : State) : Prop := ∀ p ∈ s.pins :: s.script, p.evReady = false ∧ p.rst = false

/-- What the host drives after a step is what it drove before, or the script's next: the sink goes on withholding. -/
theorem State.withheld_elapse {s : State} (h : s.withheld) : s.elapse.withheld := by
  cases hscript : s.script with
  | nil =>
    intro p hp
    rw [State.elapse_pins_of_end s hscript, State.elapse_script_of_end s hscript, List.mem_singleton] at hp
    subst hp
    exact h s.pins List.mem_cons_self
  | cons q qs =>
    intro p hp
    rw [State.elapse_pins_of_cons s q qs hscript, State.elapse_script_of_cons s q qs hscript, ← hscript] at hp
    exact h p (List.mem_cons_of_mem _ hp)

theorem State.withheld_hostStore {s : State} (h : s.withheld) : s.hostStore.withheld := by
  simpa only [State.withheld, State.hostStore_pins, State.hostStore_script] using h

/-- R275: the block does nothing at all while its event is withheld, whether a transaction runs or not. -/
theorem cycle_of_withheld {s : State} (hvalid : s.pend.valid = true) (h : s.withheld) : cycle s = .next s := by
  obtain ⟨hready, hrst⟩ := h s.pins List.mem_cons_self
  cases hbusy : s.pos.busy with
  | true => simp only [cycle_of_busy s hbusy, busyCycle, hrst, hvalid, hready, Bool.false_eq_true, if_true, if_false]
  | false => simp only [cycle, hbusy, hrst, hvalid, hready, Bool.false_eq_true, if_true, if_false]

/-- A step in which the event is withheld is the host's alone: its store, and its next input levels. -/
theorem step_of_withheld {s : State} (hvalid : s.pend.valid = true) (h : s.withheld) :
    step s = .next s.hostStore.elapse :=
  (step_next s _).2 ⟨_, cycle_of_withheld (by rw [State.hostStore_pend, hvalid]) (State.withheld_hostStore h), rfl⟩

/-- A run begins with its first step. -/
theorem runsTo_succ {n : Nat} {s t u : State} (hstep : step s = .next t) (hrun : runsTo n t u) :
    runsTo (n + 1) s u := by
  have hcore : Sys2Proof.core.step s = .next t := hstep
  simpa only [runsTo, Host.Core.run, hcore] using hrun

/-- Settles O35, by induction on the number of steps: each is the host's alone (`step_of_withheld`), and the sink goes
on withholding (`State.withheld_elapse`). -/
theorem sinkStallsBlock : Obligations.SinkStallsBlock := by
  intro n
  induction n with
  | zero => exact fun s _ _ => ⟨s, rfl, rfl, rfl, rfl, rfl, rfl⟩
  | succ n ih =>
    intro s hvalid hheld
    obtain ⟨t, hrun, hkept⟩ :=
      ih s.hostStore.elapse (by simpa using hvalid) (State.withheld_elapse (State.withheld_hostStore hheld))
    exact ⟨t, runsTo_succ (step_of_withheld hvalid hheld) hrun, by simpa using hkept⟩

end Sys2Proof.Machine
end

section
/-!
SUPPORT. What a running transaction does not look at (45_orchestration.md R273): no unit of its work reads an input
port, and of the ports its cycle reads RST, EV_READY and the latency choice alone. Said as a commutation: under other input
levels a unit, a cycle and a step answer the same state, under those levels.
-/

namespace Sys2Proof.Machine

/-! ### The state under other input levels -/

/-- The state as the host drives it with other input levels. -/
def State.driven (s : State) (p : Pins) : State := { s with pins := p }

section Driven

variable (s : State) (p : Pins)

@[simp] theorem State.driven_regs : (s.driven p).regs = s.regs := rfl
@[simp] theorem State.driven_pos : (s.driven p).pos = s.pos := rfl
@[simp] theorem State.driven_pend : (s.driven p).pend = s.pend := rfl
@[simp] theorem State.driven_burst : (s.driven p).burst = s.burst := rfl
@[simp] theorem State.driven_params : (s.driven p).params = s.params := rfl
@[simp] theorem State.driven_pins : (s.driven p).pins = p := rfl

@[simp] theorem State.driven_fits (a n : Nat) : (s.driven p).fits a n = s.fits a n := rfl
@[simp] theorem State.driven_readByte (a : Nat) : (s.driven p).readByte a = s.readByte a := rfl
@[simp] theorem State.driven_readAgain (a : Nat) : (s.driven p).readAgain a = s.readAgain a := rfl
@[simp] theorem State.driven_byteAt (a : Nat) : (s.driven p).byteAt a = s.byteAt a := rfl
@[simp] theorem State.driven_beWord (a : Nat) : beWord (s.driven p).byteAt a = beWord s.byteAt a := rfl
@[simp] theorem State.driven_frameStart : (s.driven p).frameStart = s.frameStart := rfl
@[simp] theorem State.driven_payloadStart : (s.driven p).payloadStart = s.payloadStart := rfl
@[simp] theorem State.driven_trailerOffset : (s.driven p).trailerOffset = s.trailerOffset := rfl
@[simp] theorem State.driven_endMarkerAt (a : Nat) : (s.driven p).endMarkerAt a = s.endMarkerAt a := rfl
@[simp] theorem State.driven_passes (i : Nat) : (s.driven p).passes i = s.passes i := rfl
@[simp] theorem State.driven_ftFoundAt (i : Nat) : (s.driven p).ftFoundAt i = s.ftFoundAt i := rfl

theorem State.driven_memReadFrom (a n : Nat) (v : Word) :
    (s.driven p).memReadFrom a n v = s.memReadFrom a n v := by
  induction n generalizing a v with
  | zero => rfl
  | succ n ih => simp only [State.memReadFrom, State.driven_readByte, ih]

@[simp] theorem State.driven_memRead (a n : Nat) : (s.driven p).memRead a n = s.memRead a n :=
  s.driven_memReadFrom p a n 0

theorem State.driven_sumFrom (a n : Nat) (acc : Byte) : (s.driven p).sumFrom a n acc = s.sumFrom a n acc := by
  induction n generalizing a acc with
  | zero => rfl
  | succ n ih => simp only [State.sumFrom, State.driven_readByte, ih]

@[simp] theorem State.driven_checksum (lo hi : Nat) : (s.driven p).checksum lo hi = s.checksum lo hi :=
  s.driven_sumFrom p lo (hi - lo) 0

@[simp] theorem State.driven_goto (q : Pos) : (s.driven p).goto q = (s.goto q).driven p := rfl
@[simp] theorem State.driven_setRegs (r : Regs) : (s.driven p).setRegs r = (s.setRegs r).driven p := rfl
@[simp] theorem State.driven_setStatus (f : StatusBit) : (s.driven p).setStatus f = (s.setStatus f).driven p := rfl
@[simp] theorem State.driven_enterDone : (s.driven p).enterDone = s.enterDone.driven p := rfl
@[simp] theorem State.driven_endBody : (s.driven p).endBody = s.endBody.driven p := rfl

@[simp] theorem State.driven_present : (s.driven p).present = s.present.driven p := by
  simp only [State.present, State.driven_pend, State.driven_burst]
  split <;> rfl

@[simp] theorem State.driven_emit (es : List Wires) : (s.driven p).emit es = (s.emit es).driven p :=
  State.driven_present { s with burst := s.burst ++ es } p

@[simp] theorem State.driven_raise (c : Condition) : (s.driven p).raise c = (s.raise c).driven p := by
  cases hbit : c.bit <;> simp only [State.raise, hbit, State.driven_setStatus, State.driven_emit]

@[simp] theorem State.driven_truncateBody : (s.driven p).truncateBody = s.truncateBody.driven p := by
  simp only [State.truncateBody, State.driven_raise, State.driven_endBody]

@[simp] theorem State.ite_driven (c : Prop) [Decidable c] (t : State) :
    (if c then s.driven p else t.driven p) = (if c then s else t).driven p :=
  (apply_ite (State.driven · p) c s t).symm

end Driven

/-! ### The units of work -/

/-- A unit of work that looks at no input port: under other levels it answers the same, under those levels. -/
def BlindToPins (f : State → Except Fault State) : Prop := ∀ s p, f (s.driven p) = (f s).map (State.driven · p)

theorem acceptCandidate_blind (i : Nat) : BlindToPins (State.acceptCandidate · i) := by
  intro s p
  simp only [State.acceptCandidate, State.driven_readByte, State.driven_readAgain]
  split <;> rfl

theorem scanUnit_blind : BlindToPins scanUnit := by
  intro s p
  simp only [scanUnit, State.driven_regs, State.driven_setStatus, State.driven_raise, State.driven_enterDone,
    State.driven_ftFoundAt, State.driven_passes, State.driven_setRegs, acceptCandidate_blind _ _ p]
  split_ifs <;> rfl

theorem foundUnit_driven (q : FoundPos) (s : State) (p : Pins) :
    foundUnit q (s.driven p) = (foundUnit q s).driven p := by
  cases q with
  | verify => simp [foundUnit, verifyWork]
  | leave => rfl

theorem headerFieldUnit_blind (k : Nat) (tag : Tag) : BlindToPins (headerFieldUnit k tag) := by
  intro s p
  simp only [headerFieldUnit, State.driven_frameStart, State.driven_readByte, State.driven_goto, State.driven_emit]
  split <;> rfl

theorem subUnit_blind : BlindToPins subUnit := by
  intro s p
  simp only [subUnit, State.driven_payloadStart, State.driven_fits, State.driven_readByte, State.driven_regs,
    State.driven_setRegs, State.driven_goto, State.driven_emit, State.driven_raise]
  split
  · split <;> rfl
  · rfl

theorem dispatchUnit_driven (s : State) (p : Pins) : dispatchUnit (s.driven p) = (dispatchUnit s).driven p := by
  simp [dispatchUnit]

theorem headerUnit_blind (q : HeaderPos) : BlindToPins (headerUnit q) := by
  intro s p
  cases q with
  | field k =>
    cases htag : headerTags[k]? with
    | none => simp only [headerUnit, htag]; rfl
    | some tag => simpa only [headerUnit, htag] using headerFieldUnit_blind k tag s p
  | sub => exact subUnit_blind s p
  | dispatch => exact congrArg Except.ok (dispatchUnit_driven s p)
  | leave => rfl

theorem declaredUnit_blind : BlindToPins declaredUnit := by
  intro s p
  simp only [declaredUnit, State.driven_trailerOffset, State.driven_fits, State.driven_readByte, State.driven_regs,
    State.driven_setRegs, State.driven_goto, State.driven_emit]
  split
  · split <;> rfl
  · rfl

theorem compareUnit_blind : BlindToPins compareUnit := by
  intro s p
  simp only [compareUnit, State.driven_frameStart, State.driven_trailerOffset, State.driven_checksum,
    State.driven_regs, State.driven_setRegs, State.driven_goto, State.driven_raise, State.ite_driven]
  split <;> rfl

theorem endMarkUnit_blind : BlindToPins endMarkUnit := by
  intro s p
  simp only [endMarkUnit, State.driven_trailerOffset, State.driven_fits, State.driven_readByte, State.driven_goto,
    State.driven_emit]
  split
  · split <;> rfl
  · rfl

theorem trailerUnit_blind (q : TrailerPos) : BlindToPins (trailerUnit q) := by
  intro s p
  cases q with
  | declared => exact declaredUnit_blind s p
  | compare => exact compareUnit_blind s p
  | endMark => exact endMarkUnit_blind s p
  | leave => rfl

/-! ### The units of a body -/

theorem listHeaderUnit_blind (m : BodyCfg) : BlindToPins (listHeaderUnit m) := by
  intro s p
  simp [listHeaderUnit_eq, Except.map]

theorem countUnit_blind : BlindToPins countUnit := by
  intro s p
  simp [countUnit_eq, Except.map]

theorem errorCodeWork_blind : BlindToPins errorCodeWork := by
  intro s p
  simp [errorCodeWork_eq, Except.map]

theorem filterWork_blind : BlindToPins filterWork := by
  intro s p
  simp [filterWork_eq, Except.map]

theorem selectUnit_blind (m : BodyCfg) : BlindToPins (selectUnit m) := by
  intro s p
  simp only [selectUnit, State.driven_regs, State.driven_payloadStart, State.driven_setRegs, errorCodeWork_blind _ p,
    filterWork_blind _ p]
  cases m.kind with
  | none | hdrReq | hdrFilter => rfl
  | hdrRes | serverItems | dpValueCmd | dpValueState | dpDescriptor | descString | paramByte =>
    dsimp only
    split <;> rfl

theorem recordUnit_driven (sh : Shape) (s : State) (p : Pins) :
    recordUnit sh (s.driven p) = (recordUnit sh s).driven p := by
  simp [recordUnit]

theorem leadFieldUnit_blind (f : LeadField) (k : Nat) : BlindToPins (leadFieldUnit f k) := by
  intro s p
  simp only [leadFieldUnit, State.driven_regs, State.driven_memRead, State.driven_goto, State.driven_emit]
  split <;> rfl

theorem variableLength_driven (sh : Shape) (s : State) (p : Pins) :
    variableLength sh (s.driven p) = variableLength sh s := by
  simp only [variableLength, State.driven_regs, State.driven_memRead]

theorem variableUnit_blind (sh : Shape) : BlindToPins (variableUnit sh) := by
  intro s p
  simp only [variableUnit, variableLength_driven, State.driven_regs, State.driven_fits, State.driven_goto,
    State.driven_emit, State.driven_truncateBody]
  split
  · split <;> rfl
  · rfl

theorem viewUnit_blind (sh : Shape) (n : Nat) : BlindToPins (viewUnit sh n) := by
  intro s p
  simp only [viewUnit, State.driven_regs, State.driven_memRead, State.driven_params, State.driven_goto,
    State.driven_emit]
  split
  case isFalse => rfl
  case isTrue =>
    cases s.memRead s.regs.cur.toNat 2 with
    | error e => rfl
    | ok id =>
      dsimp only
      cases appliedView s.params.siType id.toNat n with
      | none => rfl
      | some v => cases s.memRead (s.regs.cur.toNat + sh.size) n <;> rfl

theorem recordLoopUnit_blind (sh : Shape) (q : BodyPos) : BlindToPins (recordLoopUnit sh q) := by
  intro s p
  cases q with
  | record => exact congrArg Except.ok (recordUnit_driven sh s p)
  | lead k =>
    cases hfield : sh.lead[k]? with
    | none => simp only [recordLoopUnit, hfield]; rfl
    | some f => simpa only [recordLoopUnit, hfield] using leadFieldUnit_blind f k s p
  | varPart => exact variableUnit_blind sh s p
  | view n => exact viewUnit_blind sh n s p
  | advance | listHeader | countField | select | leave => rfl

theorem bodyAt_blind (m : BodyCfg) (q : BodyPos) : BlindToPins (bodyAt m q) := by
  intro s p
  cases q with
  | listHeader => exact listHeaderUnit_blind m s p
  | countField => exact countUnit_blind s p
  | select => exact selectUnit_blind m s p
  | leave => rfl
  | record | lead | varPart | view | advance =>
    cases hshape : shapeOf s.params m.kind with
    | none => simp only [bodyAt, State.driven_params, hshape]; rfl
    | some sh => simpa only [bodyAt, State.driven_params, hshape] using recordLoopUnit_blind sh _ s p

/-! ### A transaction's step -/

theorem BlindToPins.outcomeOf {f : State → Except Fault State} (hf : BlindToPins f) (s : State) (p : Pins) :
    outcomeOf (f (s.driven p)) = mapNext (State.driven · p) (outcomeOf (f s)) := by
  rw [hf s p]
  cases f s <;> rfl

theorem exec_driven (i : Instr) (s : State) (p : Pins) :
    exec i (s.driven p) = mapNext (State.driven · p) (exec i s) := by
  simp only [exec_eq, bodyUnit, State.driven_pos, (bodyAt_blind _ _).outcomeOf s p]
  split <;> rfl

theorem payloadUnit_driven (s : State) (p : Pins) :
    payloadUnit (s.driven p) = mapNext (State.driven · p) (payloadUnit s) := by
  simp only [payloadUnit, State.fetch, State.driven_regs, exec_driven]
  split <;> rfl

/-- No phase's work looks at an input port (R261). -/
theorem workUnit_driven (s : State) (p : Pins) :
    workUnit (s.driven p) = mapNext (State.driven · p) (workUnit s) := by
  cases hpos : s.pos with
  | idle | done => simp only [workUnit, State.driven_pos, hpos]; rfl
  | scanning => simpa only [workUnit, State.driven_pos, hpos] using scanUnit_blind.outcomeOf s p
  | foundFrame q => simp only [workUnit, State.driven_pos, hpos, foundUnit_driven]; rfl
  | header q => simpa only [workUnit, State.driven_pos, hpos] using (headerUnit_blind q).outcomeOf s p
  | payload q => simpa only [workUnit, State.driven_pos, hpos] using payloadUnit_driven s p
  | trailer q => simpa only [workUnit, State.driven_pos, hpos] using (trailerUnit_blind q).outcomeOf s p

/-- Of the input ports a running transaction's cycle looks at RST, EV_READY and the latency choice alone (R273). -/
theorem busyCycle_driven (s : State) (p : Pins) (hrst : p.rst = s.pins.rst) (hready : p.evReady = s.pins.evReady)
    (hwait : p.wait = s.pins.wait) : busyCycle (s.driven p) = mapNext (State.driven · p) (busyCycle s) := by
  simp only [busyCycle, State.driven_pins, State.driven_pend, State.driven_burst, State.driven_present, hrst, hready,
    hwait, workUnit_driven]
  split_ifs <;> rfl

theorem State.hostStore_driven (s : State) (p : Pins) (hstore : p.store = s.pins.store) :
    (s.driven p).hostStore = s.hostStore.driven p := by
  simp only [State.hostStore, State.driven_pins, hstore]
  split <;> rfl

/-- At the end of the script the levels are kept, so they may still differ after the step. -/
theorem State.elapse_driven (s : State) (p : Pins) : ∃ q, (s.driven p).elapse = s.elapse.driven q := by
  cases hscript : s.script with
  | nil => exact ⟨{ p with wait := false }, by simp only [State.elapse, State.driven, hscript]⟩
  | cons q qs => exact ⟨q, by simp only [State.elapse, State.driven, hscript]⟩

/-- A step of a running transaction under input levels that differ in START, LEN_IN and RREG at most answers the same
state but for its input levels. -/
theorem step_driven {s t : State} {p : Pins} (hbusy : s.pos.busy = true) (hstep : step s = .next t)
    (hrst : p.rst = s.pins.rst) (hready : p.evReady = s.pins.evReady) (hwait : p.wait = s.pins.wait)
    (hstore : p.store = s.pins.store) : ∃ q, step (s.driven p) = .next (t.driven q) := by
  obtain ⟨u, hcycle, rfl⟩ := (step_next s t).1 hstep
  obtain ⟨q, hnext⟩ := u.elapse_driven p
  have hbusyThen : s.hostStore.pos.busy = true := by rw [State.hostStore_pos, hbusy]
  have hdriven : cycle (s.driven p).hostStore = .next (u.driven p) := by
    rw [State.hostStore_driven s p hstore, cycle_of_busy (s.hostStore.driven p) hbusyThen,
      busyCycle_driven s.hostStore p (by rwa [State.hostStore_pins]) (by rwa [State.hostStore_pins])
        (by rwa [State.hostStore_pins]), ← cycle_of_busy s.hostStore hbusyThen, hcycle]
    rfl
  exact ⟨q, (step_next _ _).2 ⟨_, hdriven, hnext.symm⟩⟩

/-- Settles O39: the other levels agree with the old ones on every port that a running transaction looks at
(`step_driven`), so the step's answer differs in its input levels alone. -/
theorem startIgnoredWhileBusy : Obligations.StartIgnoredWhileBusy := by
  intro s t go n r hbusy hstep
  obtain ⟨q, hdriven⟩ :=
    step_driven (p := { s.pins with start := go, lenIn := n, rreg := r }) hbusy hstep rfl rfl rfl rfl
  exact ⟨t.driven q, hdriven, rfl, rfl, rfl, rfl, rfl, rfl, rfl, rfl, rfl⟩

end Sys2Proof.Machine
end

section
/-!
SUPPORT. What a step does while no transaction runs and nothing asks for one (60_exceptions.md R317).
-/

namespace Sys2Proof.Machine

/-- No transaction runs exactly in IDLE and in DONE. -/
theorem Pos.busy_eq_false_iff (p : Pos) : p.busy = false ↔ p = .idle ∨ p = .done := by
  cases p <;> simp [Pos.busy]

/-- Without a transaction, RST, START and a pending event the block does nothing at all, whatever the other ports say. -/
theorem cycle_of_rest {s : State} (hbusy : s.pos.busy = false) (hvalid : s.pend.valid = false)
    (hrst : s.pins.rst = false) (hstart : s.pins.start = false) : cycle s = .next s := by
  simp only [cycle, hbusy, hvalid, hrst, hstart, Bool.false_eq_true, if_false]

/-- A step in which the block rests is the host's alone: its store, and its next input levels. -/
theorem step_of_rest {s : State} (hbusy : s.pos.busy = false) (hvalid : s.pend.valid = false)
    (hrst : s.pins.rst = false) (hstart : s.pins.start = false) : step s = .next s.hostStore.elapse :=
  (step_next s _).2 ⟨_, cycle_of_rest (by rwa [State.hostStore_pos]) (by rwa [State.hostStore_pend])
    (by rwa [State.hostStore_pins]) (by rwa [State.hostStore_pins]), rfl⟩

/-- Settles O41: the step is the host's alone (`step_of_rest`), and neither the host's store nor the move to its next
inputs touches the registers, the position, the event port or the sink. -/
theorem idleAndDoneStable : Obligations.IdleAndDoneStable := by
  intro s hpos hvalid hrst hstart
  have hbusy : s.pos.busy = false := (Pos.busy_eq_false_iff s.pos).2 hpos
  refine ⟨s.hostStore.elapse, step_of_rest hbusy hvalid hrst hstart, ?regs, ?pos, ?pend, ?burst, ?sink⟩
  case regs => rw [State.elapse_regs, State.hostStore_regs]
  case pos => rw [State.elapse_pos, State.hostStore_pos]
  case pend => rw [State.elapse_pend, State.hostStore_pend]
  case burst => rw [State.elapse_burst, State.hostStore_burst]
  case sink => rw [State.elapse_sink, State.hostStore_sink]

end Sys2Proof.Machine
end

section
/-!
SUPPORT. A step under RST in full (70_reset_and_hazards.md R330, R331): with the reset values, nothing of the transaction is
left to come, and what the sink has accepted stands.
-/

namespace Sys2Proof.Machine

/-- The reset registers hold no STATUS bit, so every output port that copies one is low (R43, R49). -/
theorem State.flag_of_reset {s : State} (hregs : s.regs = Regs.reset) (f : StatusBit) : s.flag f = false := by
  rw [State.flag, hregs]
  exact getFlag_zero f

/-- Settles O40: the step answers the reset block after the host's store (`step_of_rst`); `resetBlock` gives the reset
values and drops what waits, `elapse` keeps them, and neither these two nor the host's store touches the sink. The two
ports copy bits of the reset STATUS. -/
theorem resetStep : Obligations.ResetStep := by
  intro s hrst
  have hregs : s.hostStore.resetBlock.elapse.regs = Regs.reset := by rw [State.elapse_regs, State.resetBlock_regs]
  refine ⟨_, step_of_rst s hrst, ?pos, hregs, ?pend, ?burst, ?sink, State.flag_of_reset hregs .done,
    State.flag_of_reset hregs .busy, fun hstore => ?buf⟩
  case pos => rw [State.elapse_pos, State.resetBlock_pos]
  case pend => rw [State.elapse_pend, State.resetBlock_pend]; rfl
  case burst => rw [State.elapse_burst, State.resetBlock_burst]
  case sink => rw [State.elapse_sink, State.resetBlock_sink, State.hostStore_sink]
  case buf => rw [resetStep_buf, State.hostStore_of_none s hstore]

end Sys2Proof.Machine
end

section
/-!
SUPPORT. What one unit of work can do, said once: from which position, under which guards, to which position, registers
and events. `UnitCase` lists the cases of all phases, and `workUnit_moved` says that a unit of a running transaction is
one of them and changes nothing else. The statements about every step are case splits over these lists.
-/

namespace Sys2Proof.Machine

/-! ### The effect of a unit -/

/-- One unit has led from `s` to `t`: the position and the registers are these, these events have been appended to
those waiting, and nothing else differs. -/
structure Moved (s t : State) (q : Pos) (g : Regs) (es : List Wires) : Prop where
  pos : t.pos = q
  regs : t.regs = g
  waiting : t.waiting = s.waiting ++ es
  sink : t.sink = s.sink
  around : SameSurroundings s t

theorem moved_setRegs_goto (s : State) (g : Regs) (q : Pos) : Moved s ((s.setRegs g).goto q) q g [] :=
  ⟨rfl, rfl, (List.append_nil _).symm, rfl, ⟨rfl, rfl, rfl, rfl, rfl, rfl⟩⟩

theorem moved_goto (s : State) (q : Pos) : Moved s (s.goto q) q s.regs [] := moved_setRegs_goto s s.regs q

theorem State.emit_around (s : State) (es : List Wires) : SameSurroundings s (s.emit es) :=
  ⟨s.emit_buf es, s.emit_params es, s.emit_unstable es, s.emit_pins es, s.emit_script es, s.emit_tick es⟩

theorem Moved.emit {s t : State} {q : Pos} {g : Regs} {es : List Wires} (h : Moved s t q g es) (fs : List Wires) :
    Moved s (t.emit fs) q g (es ++ fs) :=
  ⟨by rw [State.emit_pos, h.pos], by rw [State.emit_regs, h.regs],
    by rw [State.waiting_emit, h.waiting, List.append_assoc], by rw [State.emit_sink, h.sink],
    h.around.trans (t.emit_around fs)⟩

theorem moved_emit (s : State) (g : Regs) (q : Pos) (es : List Wires) :
    Moved s (((s.setRegs g).goto q).emit es) q g es :=
  (moved_setRegs_goto s g q).emit es

theorem Moved.trans {s t u : State} {q r : Pos} {g k : Regs} {es fs : List Wires} (h : Moved s t q g es)
    (h' : Moved t u r k fs) : Moved s u r k (es ++ fs) :=
  ⟨h'.pos, h'.regs, by rw [h'.waiting, h.waiting, List.append_assoc], h'.sink.trans h.sink, h.around.trans h'.around⟩

/-- What a unit does after writing registers it does to the state it began in. -/
theorem Moved.of_setRegs {s t : State} {q : Pos} {g k : Regs} {es : List Wires} (h : Moved (s.setRegs k) t q g es) :
    Moved s t q g es :=
  (moved_setRegs_goto s k s.pos).trans h

/-- A condition writes its STATUS bit and emits its diagnostic (60_exceptions.md R300). -/
theorem moved_raise_goto (s : State) (c : Condition) (q : Pos) :
    Moved s ((s.raise c).goto q) q (s.raise c).regs c.diag :=
  ⟨rfl, rfl, s.waiting_raise c, s.raise_sink c,
    ⟨s.raise_buf c, s.raise_params c, s.raise_unstable c, s.raise_pins c, s.raise_script c, s.raise_tick c⟩⟩

/-- Truncated sets TRUNC and emits nothing (R214, R300). -/
theorem moved_truncated_goto (s : State) (q : Pos) :
    Moved s ((s.raise .truncated).goto q) q (s.regs.flagged .trunc) [] := by
  have h := moved_raise_goto s .truncated q
  rwa [State.raise_regs] at h

theorem moved_truncateBody (s : State) : Moved s s.truncateBody (.payload .leave) (s.regs.flagged .trunc) [] :=
  moved_truncated_goto s _

/-! ### SCANNING -/

/-- The cases of a unit of SCANNING (41_locator.md R131, R137, R138; 45_orchestration.md R263). It emits nothing. -/
inductive ScanCase (s : State) : Pos → Regs → Prop where
  | short : s.regs.len.toNat < 10 →
      ScanCase s .done { s.regs with status := statusAtDone (setFlag s.regs.status .short) }
  | exhausted : 10 ≤ s.regs.len.toNat → 5 ≤ s.regs.scanI.toNat →
      ScanCase s .done { s.regs with status := statusAtDone s.regs.status }
  | accepted : 10 ≤ s.regs.len.toNat → s.regs.scanI.toNat < 5 → s.passes s.regs.scanI.toNat = true →
      ScanCase s (.foundFrame .verify) { s.regs with
        ftFound := s.ftFoundAt s.regs.scanI.toNat
        startOff := BitVec.ofNat 3 s.regs.scanI.toNat
        dlen := s.byteAt (s.regs.scanI.toNat + 1), ctrl := s.byteAgain (s.regs.scanI.toNat + 4)
        status := setFlag s.regs.status .recognized }
  | rejected : 10 ≤ s.regs.len.toNat → s.regs.scanI.toNat < 5 → s.passes s.regs.scanI.toNat = false →
      ScanCase s .scanning { s.regs with
        ftFound := s.ftFoundAt s.regs.scanI.toNat, scanI := BitVec.ofNat 3 (s.regs.scanI.toNat + 1) }

/-- NotRecognized has no STATUS bit and no diagnostic (60_exceptions.md R300), so nothing but DONE is left of it. -/
theorem moved_enterDone (s : State) : Moved s (s.raise .notRecognized).enterDone .done
    { s.regs with status := statusAtDone s.regs.status } [] := by
  have h := (moved_raise_goto s .notRecognized s.pos).trans
    (moved_setRegs_goto _ { s.regs with status := statusAtDone s.regs.status } .done)
  rwa [State.enterDone, State.raise_regs]

theorem scanUnit_moved {s t : State} (hpos : s.pos = .scanning) (h : scanUnit s = .ok t) :
    ∃ q g, ScanCase s q g ∧ Moved s t q g [] := by
  obtain ⟨hlen, rfl⟩ | ⟨hlen, hend, rfl⟩ | ⟨hlen, hi, hpass, rfl⟩ | ⟨hlen, hi, hpass, rfl⟩ := scanUnit_ok s t h
  · exact ⟨_, _, .short hlen, (moved_enterDone (s.setStatus .short)).of_setRegs⟩
  · exact ⟨_, _, .exhausted hlen hend, moved_enterDone s⟩
  · exact ⟨_, _, .accepted hlen hi hpass, moved_setRegs_goto s _ _⟩
  · refine ⟨_, _, .rejected hlen hi hpass, ?_⟩
    rw [← hpos]
    exact moved_setRegs_goto s _ _

/-! ### FOUND_FRAME -/

/-- T as VERIFY computes it, from the frame start and DLEN (42_integrity.md R150). -/
def State.declaredEnd (s : State) : Nat := s.frameStart + Config.trailerBase + s.regs.dlen.toNat

/-- The cases of a unit of FOUND_FRAME (42_integrity.md R150-R153). -/
inductive FoundCase (s : State) : FoundPos → Pos → Regs → List Wires → Prop where
  | complete : s.endMarkerAt s.declaredEnd = true →
      FoundCase s .verify (.foundFrame .leave)
        { s.regs with toff := BitVec.ofNat 16 s.declaredEnd, status := setFlag s.regs.status .complete } []
  | incomplete : s.endMarkerAt s.declaredEnd = false →
      FoundCase s .verify (.foundFrame .leave) { s.regs with toff := BitVec.ofNat 16 s.declaredEnd }
        [diagEvent .warning .frameIncomplete (BitVec.ofNat 16 (s.declaredEnd + 1)) 0]
  | leave : FoundCase s .leave (.header (.field 0)) s.regs []

/-- What VERIFY answers in each of its two cases. -/
theorem verifyWork_eq (s : State) :
    verifyWork s = if s.endMarkerAt s.declaredEnd then
        (s.setRegs { s.regs with
          toff := BitVec.ofNat 16 s.declaredEnd, status := setFlag s.regs.status .complete }).goto (.foundFrame .leave)
      else
        ((s.setRegs { s.regs with toff := BitVec.ofNat 16 s.declaredEnd }).goto (.foundFrame .leave)).emit
          [diagEvent .warning .frameIncomplete (BitVec.ofNat 16 (s.declaredEnd + 1)) 0] := by
  cases hend : s.endMarkerAt s.declaredEnd with
  | true => rw [State.declaredEnd] at hend ⊢; simp only [verifyWork, hend, setFlagIf, if_true]
  | false =>
    rw [State.declaredEnd] at hend ⊢
    simp only [verifyWork, hend, setFlagIf, Bool.false_eq_true, if_false]
    rfl

theorem foundUnit_moved (s : State) (p : FoundPos) : ∃ q g es, FoundCase s p q g es ∧ Moved s (foundUnit p s) q g es := by
  cases p with
  | verify =>
    rw [foundUnit, verifyWork_eq]
    cases hend : s.endMarkerAt s.declaredEnd with
    | true => exact ⟨_, _, _, .complete hend, moved_setRegs_goto s _ _⟩
    | false => exact ⟨_, _, _, .incomplete hend, moved_emit s _ _ _⟩
  | leave => exact ⟨_, _, _, .leave, moved_goto s _⟩

/-! ### HEADER_DECODED -/

/-- The cases of a unit of HEADER_DECODED (45_orchestration.md R266; 43_dispatch.md R192). -/
inductive HeaderCase (s : State) : HeaderPos → Pos → Regs → List Wires → Prop where
  | field (k : Nat) (tag : Tag) : headerTags[k]? = some tag → s.frameStart + k < s.regs.len.toNat →
      HeaderCase s (.field k) (.header (.field (k + 1))) s.regs
        [fieldEvent (s.frameStart + k) 1 tag ((s.byteAt (s.frameStart + k)).setWidth 16)]
  | fieldsEnd (k : Nat) : headerTags[k]? = none → HeaderCase s (.field k) (.header .sub) s.regs []
  | sub : s.payloadStart + 1 < s.regs.len.toNat →
      HeaderCase s .sub (.header .dispatch)
        { s.regs with sub := s.byteAt (s.payloadStart + 1), status := setFlag s.regs.status .subValid }
        [fieldEvent (s.payloadStart + 1) 1 .baosSub ((s.byteAt (s.payloadStart + 1)).setWidth 16)]
  | subAbsent : s.regs.len.toNat ≤ s.payloadStart + 1 →
      HeaderCase s .sub (.header .leave) (s.regs.flagged .trunc) []
  | dispatched : (dispatch s.regs.sub).kind ≠ .none →
      HeaderCase s .dispatch (.header .leave) { s.regs with kind := (dispatch s.regs.sub).kind.code } []
  | unknown : (dispatch s.regs.sub).kind = .none →
      HeaderCase s .dispatch (.header .leave)
        ({ s.regs with kind := (dispatch s.regs.sub).kind.code }.flagged .unknownSub) []
  | leave : HeaderCase s .leave (.payload .listHeader) s.regs []

theorem headerUnit_moved {s t : State} {p : HeaderPos} (h : headerUnit p s = .ok t) :
    ∃ q g es, HeaderCase s p q g es ∧ Moved s t q g es := by
  cases p with
  | field k =>
    cases htag : headerTags[k]? with
    | none =>
      simp only [headerUnit, htag, Except.ok.injEq] at h
      subst h
      exact ⟨_, _, _, .fieldsEnd k htag, moved_goto s _⟩
    | some tag =>
      simp only [headerUnit, htag] at h
      obtain ⟨hlen, rfl⟩ := headerFieldUnit_ok k tag s t h
      exact ⟨_, _, _, .field k tag htag hlen, moved_emit s s.regs _ _⟩
  | sub =>
    obtain ⟨hlen, rfl⟩ | ⟨hlen, rfl⟩ := subUnit_ok s t h
    · exact ⟨_, _, _, .sub hlen, moved_emit s _ _ _⟩
    · exact ⟨_, _, _, .subAbsent hlen, moved_truncated_goto s _⟩
  | dispatch =>
    simp only [headerUnit, Except.ok.injEq] at h
    subst h
    by_cases hkind : (dispatch s.regs.sub).kind = .none
    · refine ⟨_, _, _, .unknown hkind, ?_⟩
      rw [dispatchUnit, if_pos hkind]
      exact moved_emit s ({ s.regs with kind := (dispatch s.regs.sub).kind.code }.flagged .unknownSub) _ []
    · refine ⟨_, _, _, .dispatched hkind, ?_⟩
      rw [dispatchUnit, if_neg hkind]
      exact moved_setRegs_goto s _ _
  | leave =>
    simp only [headerUnit, Except.ok.injEq] at h
    subst h
    exact ⟨_, _, _, .leave, moved_goto s _⟩

/-! ### PAYLOAD_DECODED: the selection -/

/-- What follows a list header (44_record_streams.md R204). -/
inductive Selection where
  | nothing | errorCode | filter | records

/-- The selection that the mux's outputs and COUNT make (R203, R204, R215-R217). -/
def selectionOf (m : MuxOut) (count : Word) : Selection :=
  match m.kind with
  | .none => .nothing
  | .hdrReq => .nothing
  | .hdrRes => if count = 0 then .errorCode else .nothing
  | .hdrFilter => .filter
  | .serverItems | .dpValueCmd | .dpValueState | .dpDescriptor | .descString | .paramByte =>
    if m.zc && count == 0 then .errorCode else .records

/-- The machine's selection unit, by the selection made. -/
theorem selectUnit_eq (m : MuxOut) (s : State) :
    selectUnit m s = match selectionOf m s.regs.count with
      | .nothing => .ok (s.setRegs s.regs.selected).endBody
      | .errorCode => errorCodeWork (s.setRegs s.regs.selected)
      | .filter => filterWork (s.setRegs s.regs.selected)
      | .records => .ok ((s.setRegs s.regs.selected).goto (.payload .record)) := by
  cases hkind : m.kind with
  | none | hdrReq | hdrFilter => simp only [selectUnit, selectionOf, hkind] <;> rfl
  | hdrRes =>
    rw [selectUnit_of_hdrRes m s hkind, selectionOf, hkind]
    by_cases hcount : s.regs.count = 0
    · rw [if_pos hcount]; simp only [hcount, if_true]
    · rw [if_neg hcount]; simp only [hcount, if_false]
  | serverItems | dpValueCmd | dpValueState | dpDescriptor | descString | paramByte =>
    have hunit : selectUnit m s = if m.zc && s.regs.count == 0 then errorCodeWork (s.setRegs s.regs.selected)
        else .ok ((s.setRegs s.regs.selected).goto (.payload .record)) := by
      simp only [selectUnit, hkind]
      rfl
    rw [hunit, selectionOf, hkind]
    cases (m.zc && s.regs.count == 0) <;> rfl

/-! ### PAYLOAD_DECODED: the units of a body -/

/-- The cases of a unit of a body (44_record_streams.md R201-R209, R225). -/
inductive BodyCase (m : MuxOut) (s : State) : BodyPos → Pos → Regs → List Wires → Prop where
  | startId : s.payloadStart + 4 ≤ s.regs.len.toNat →
      BodyCase m s .listHeader (.payload .countField)
        { s.regs with
          startId := beWord s.byteAt (s.payloadStart + 2), status := setFlag s.regs.status .startIdValid }
        [fieldEvent (s.payloadStart + 2) 2 (listHeaderTag m.idxhdr) (beWord s.byteAt (s.payloadStart + 2))]
  | startIdAbsent : s.regs.len.toNat < s.payloadStart + 4 →
      BodyCase m s .listHeader (.payload .leave) (s.regs.flagged .trunc) []
  | count : s.payloadStart + 6 ≤ s.regs.len.toNat →
      BodyCase m s .countField (.payload .select)
        { s.regs with
          count := beWord s.byteAt (s.payloadStart + 4), status := setFlag s.regs.status .countValid }
        [fieldEvent (s.payloadStart + 4) 2 .count (beWord s.byteAt (s.payloadStart + 4))]
  | countAbsent : s.regs.len.toNat < s.payloadStart + 6 →
      BodyCase m s .countField (.payload .leave) (s.regs.flagged .trunc) []
  | selectNothing : selectionOf m s.regs.count = .nothing →
      BodyCase m s .select (.payload .leave) s.regs.selected []
  | selectRecords : selectionOf m s.regs.count = .records →
      BodyCase m s .select (.payload .record) s.regs.selected []
  | errorCode : selectionOf m s.regs.count = .errorCode → s.regs.startOff.toNat + 11 < s.regs.len.toNat →
      BodyCase m s .select (.payload .leave)
        { s.regs.selected with
          errcode := s.byteAt (s.regs.startOff.toNat + 11), status := setFlag s.regs.status .errcodeValid }
        [fieldEvent (s.regs.startOff.toNat + 11) 1 .errorCode ((s.byteAt (s.regs.startOff.toNat + 11)).setWidth 16)]
  | filter : selectionOf m s.regs.count = .filter → s.regs.startOff.toNat + 11 < s.regs.len.toNat →
      BodyCase m s .select (.payload .leave) s.regs.selected
        [fieldEvent (s.regs.startOff.toNat + 11) 1 .dpFilter ((s.byteAt (s.regs.startOff.toNat + 11)).setWidth 16)]
  | selectAbsent : selectionOf m s.regs.count = .errorCode ∨ selectionOf m s.regs.count = .filter →
      s.regs.len.toNat ≤ s.regs.startOff.toNat + 11 →
      BodyCase m s .select (.payload .leave) (s.regs.selected.flagged .trunc) []
  | noRecords (p : BodyPos) : shapeOf s.params m.kind = none → p.inRecordLoop = true →
      BodyCase m s p (.payload .leave) s.regs []
  | recordsEnd : s.regs.count.toNat ≤ s.regs.idx.toNat → BodyCase m s .record (.payload .leave) s.regs []
  | recordFits (sh : Shape) : shapeOf s.params m.kind = some sh → s.regs.idx.toNat < s.regs.count.toNat →
      s.regs.cur.toNat + sh.size ≤ s.regs.len.toNat → BodyCase m s .record (.payload (.lead 0)) s.regs []
  | recordAbsent (sh : Shape) : shapeOf s.params m.kind = some sh → s.regs.idx.toNat < s.regs.count.toNat →
      s.regs.len.toNat < s.regs.cur.toNat + sh.size →
      BodyCase m s .record (.payload .leave) (s.regs.flagged .trunc) []
  | lead (sh : Shape) (k : Nat) (f : LeadField) : shapeOf s.params m.kind = some sh → sh.lead[k]? = some f →
      s.regs.cur.toNat + f.off + f.width ≤ s.regs.len.toNat →
      BodyCase m s (.lead k) (.payload (.lead (k + 1))) s.regs
        (leadEvents f s.regs.cur.toNat (fieldValue s.byteAt (s.regs.cur.toNat + f.off) f.width))
  | leadEnd (sh : Shape) (k : Nat) : shapeOf s.params m.kind = some sh → sh.lead[k]? = none →
      BodyCase m s (.lead k) (.payload .varPart) s.regs []
  | rawData (sh : Shape) : shapeOf s.params m.kind = some sh →
      s.regs.cur.toNat + sh.size + lengthAt s.byteAt sh s.regs.cur.toNat ≤ s.regs.len.toNat →
      BodyCase m s .varPart (.payload (.view (lengthAt s.byteAt sh s.regs.cur.toNat))) s.regs
        (variableEvents sh s.regs.cur.toNat (lengthAt s.byteAt sh s.regs.cur.toNat))
  | rawDataAbsent (sh : Shape) : shapeOf s.params m.kind = some sh →
      s.regs.len.toNat < s.regs.cur.toNat + sh.size + lengthAt s.byteAt sh s.regs.cur.toNat →
      BodyCase m s .varPart (.payload .leave) (s.regs.flagged .trunc) []
  | view (sh : Shape) (n : Nat) : shapeOf s.params m.kind = some sh →
      (viewPart s.byteAt s.params.siType sh s.regs.cur.toNat n = [] ∨
        s.regs.cur.toNat + sh.size + n ≤ s.regs.len.toNat) →
      BodyCase m s (.view n) (.payload (.advance n)) s.regs
        (viewPart s.byteAt s.params.siType sh s.regs.cur.toNat n)
  | advance (sh : Shape) (n : Nat) : shapeOf s.params m.kind = some sh →
      BodyCase m s (.advance n) (.payload .record) (s.regs.advanced (sh.size + n)) []
  | leave : BodyCase m s .leave (.trailer .declared) s.regs []

theorem selectUnit_moved {m : MuxOut} {s t : State} (h : selectUnit m s = .ok t) :
    ∃ q g es, BodyCase m s .select q g es ∧ Moved s t q g es := by
  rw [selectUnit_eq] at h
  cases hsel : selectionOf m s.regs.count with
  | nothing =>
    rw [hsel, Except.ok.injEq] at h
    subst h
    exact ⟨_, _, _, .selectNothing hsel, moved_setRegs_goto s _ _⟩
  | records =>
    rw [hsel, Except.ok.injEq] at h
    subst h
    exact ⟨_, _, _, .selectRecords hsel, moved_setRegs_goto s _ _⟩
  | errorCode =>
    simp only [hsel, errorCodeWork_eq, State.setRegs_regs, Regs.selected_cur_toNat, Except.ok.injEq] at h
    subst h
    split
    next hlen => exact ⟨_, _, _, .errorCode hsel hlen, moved_emit s _ _ _⟩
    next hlen => exact ⟨_, _, _, .selectAbsent (.inl hsel) (Nat.not_lt.1 hlen), (moved_truncateBody (s.setRegs _)).of_setRegs⟩
  | filter =>
    simp only [hsel, filterWork_eq, State.setRegs_regs, Regs.selected_cur_toNat, Except.ok.injEq] at h
    subst h
    split
    next hlen => exact ⟨_, _, _, .filter hsel hlen, moved_emit s s.regs.selected _ _⟩
    next hlen => exact ⟨_, _, _, .selectAbsent (.inr hsel) (Nat.not_lt.1 hlen), (moved_truncateBody (s.setRegs _)).of_setRegs⟩

/-- A length that could be read is the one that stands in the record (R206). -/
theorem variableLength_ok {sh : Shape} {s : State} {n : Nat}
    (hfield : ∀ o w, sh.lenField = some (o, w) → o + w ≤ sh.size ∧ (w = 1 ∨ w = 2))
    (h : variableLength sh s = .ok n) : n = lengthAt s.byteAt sh s.regs.cur.toNat := by
  cases hlenField : sh.lenField with
  | none => simp only [variableLength, hlenField, Except.ok.injEq] at h; simp only [lengthAt, hlenField, h]
  | some field =>
    obtain ⟨o, w⟩ := field
    obtain ⟨_, hwidth⟩ := hfield o w hlenField
    simp only [variableLength, hlenField] at h
    split at h
    next v hread =>
      obtain ⟨_, rfl⟩ := (State.memRead_eq_ok _ _ _ _ hwidth).1 hread
      simp only [lengthAt, hlenField]
      exact (Except.ok.inj h).symm
    next => cases h

/-- A typed view that could be read is `viewPart`, over data that is present where it emits anything (R225). -/
theorem viewUnit_moved {sh : Shape} {n : Nat} {s t : State} (h : viewUnit sh n s = .ok t) :
    Moved s t (.payload (.advance n)) s.regs (viewPart s.byteAt s.params.siType sh s.regs.cur.toNat n) ∧
      (viewPart s.byteAt s.params.siType sh s.regs.cur.toNat n = [] ∨
        s.regs.cur.toNat + sh.size + n ≤ s.regs.len.toNat) := by
  cases htyped : sh.typed with
  | false =>
    simp only [viewUnit, htyped, Bool.false_eq_true, if_false, Except.ok.injEq] at h
    subst h
    simp only [viewPart, htyped, Bool.false_eq_true, if_false, true_or, and_true]
    exact moved_goto s _
  | true =>
    simp only [viewUnit, htyped, if_true] at h
    split at h
    next id hid =>
      obtain ⟨_, hidEq⟩ := (State.memRead_eq_ok _ _ _ _ (.inr rfl)).1 hid
      have hidWord : id = beWord s.byteAt s.regs.cur.toNat := hidEq
      subst hidWord
      split at h
      next v hview =>
        split at h
        next w hread =>
          obtain ⟨hlen, rfl⟩ := (State.memRead_eq_ok _ _ _ _ (appliedView_width _ _ _ _ hview)).1 hread
          obtain rfl := Except.ok.inj h
          simp only [viewPart, htyped, if_true, hview]
          exact ⟨moved_emit s s.regs _ _, .inr hlen⟩
        next => cases h
      next hview =>
        obtain rfl := Except.ok.inj h
        simp only [viewPart, htyped, if_true, hview, true_or, and_true]
        exact moved_goto s _
    next => cases h

theorem recordUnit_moved {m : MuxOut} {sh : Shape} {s : State} (hshape : shapeOf s.params m.kind = some sh) :
    ∃ q g es, BodyCase m s .record q g es ∧ Moved s (recordUnit sh s) q g es := by
  unfold recordUnit
  split
  next hleft =>
    split
    next hfits => exact ⟨_, _, _, .recordFits sh hshape hleft ((s.fits_iff _ _).1 hfits), moved_goto s _⟩
    next hfits => exact ⟨_, _, _, .recordAbsent sh hshape hleft (State.not_fits hfits), moved_truncateBody s⟩
  next hend => exact ⟨_, _, _, .recordsEnd (Nat.not_lt.1 hend), moved_goto s _⟩

theorem recordLoopUnit_moved {m : MuxOut} {sh : Shape} {p : BodyPos} {s t : State}
    (hshape : shapeOf s.params m.kind = some sh) (hloop : p.inRecordLoop = true) (h : recordLoopUnit sh p s = .ok t) :
    ∃ q g es, BodyCase m s p q g es ∧ Moved s t q g es := by
  obtain ⟨hlead, hlenField, _, _⟩ := shapeOf_fields _ _ _ hshape
  cases p with
  | listHeader | countField | select | leave => cases hloop
  | record => exact Except.ok.inj h ▸ recordUnit_moved hshape
  | lead k =>
    cases hfield : sh.lead[k]? with
    | none =>
      simp only [recordLoopUnit, hfield, Except.ok.injEq] at h
      subst h
      exact ⟨_, _, _, .leadEnd sh k hshape hfield, moved_goto s _⟩
    | some f =>
      simp only [recordLoopUnit, hfield] at h
      obtain ⟨hlen, rfl⟩ := leadFieldUnit_ok f k s t (hlead f (List.mem_of_getElem? hfield)).2 h
      exact ⟨_, _, _, .lead sh k f hshape hfield hlen, moved_emit s s.regs _ _⟩
  | varPart =>
    obtain ⟨n, hn, hcase⟩ := variableUnit_ok sh s t h
    obtain rfl := variableLength_ok hlenField hn
    obtain ⟨hlen, rfl⟩ | ⟨hlen, rfl⟩ := hcase
    · exact ⟨_, _, _, .rawData sh hshape hlen, moved_emit s s.regs _ _⟩
    · exact ⟨_, _, _, .rawDataAbsent sh hshape hlen, moved_truncateBody s⟩
  | view n =>
    obtain ⟨hmoved, hfits⟩ := viewUnit_moved h
    exact ⟨_, _, _, .view sh n hshape hfits, hmoved⟩
  | advance n =>
    simp only [recordLoopUnit, advanceUnit_eq, Except.ok.injEq] at h
    subst h
    exact ⟨_, _, _, .advance sh n hshape, moved_setRegs_goto s _ _⟩

/-- In the record loop a body's unit is the loop's, where the kind has a shape, and ends the body where it has none. -/
theorem bodyAt_loop_eq {m : MuxOut} {p : BodyPos} (s : State) (hloop : p.inRecordLoop = true) :
    bodyAt m p s = match shapeOf s.params m.kind with
      | some sh => recordLoopUnit sh p s
      | none => .ok s.endBody := by
  cases p with
  | listHeader | countField | select | leave => cases hloop
  | record | lead | varPart | view | advance => rfl

theorem bodyAt_moved {m : MuxOut} {p : BodyPos} {s t : State} (h : bodyAt m p s = .ok t) :
    ∃ q g es, BodyCase m s p q g es ∧ Moved s t q g es := by
  cases hloop : p.inRecordLoop with
  | true =>
    rw [bodyAt_loop_eq s hloop] at h
    cases hshape : shapeOf s.params m.kind with
    | none =>
      rw [hshape, Except.ok.injEq] at h
      subst h
      exact ⟨_, _, _, .noRecords p hshape hloop, moved_goto s _⟩
    | some sh =>
      rw [hshape] at h
      exact recordLoopUnit_moved hshape hloop h
  | false =>
    cases p with
    | record | lead | varPart | view | advance => cases hloop
    | listHeader =>
      obtain ⟨hlen, rfl⟩ | ⟨hlen, rfl⟩ := listHeaderUnit_ok m s t h
      · exact ⟨_, _, _, .startId hlen, moved_emit s _ _ _⟩
      · exact ⟨_, _, _, .startIdAbsent hlen, moved_truncateBody s⟩
    | countField =>
      obtain ⟨hlen, rfl⟩ | ⟨hlen, rfl⟩ := countUnit_ok s t h
      · exact ⟨_, _, _, .count hlen, moved_emit s _ _ _⟩
      · exact ⟨_, _, _, .countAbsent hlen, moved_truncateBody s⟩
    | select => exact selectUnit_moved h
    | leave =>
      simp only [bodyAt, Except.ok.injEq] at h
      subst h
      exact ⟨_, _, _, .leave, moved_goto s _⟩

/-- A meaning that answers has done one of the cases of its body's unit. -/
theorem exec_moved {i : Instr} {s t : State} (h : exec i s = .next t) :
    ∃ p q g es, s.pos = .payload p ∧ BodyCase (dispatch i.code) s p q g es ∧ Moved s t q g es := by
  obtain ⟨p, hpos, hbody⟩ := exec_next i s t h
  obtain ⟨q, g, es, hcase, hmoved⟩ := bodyAt_moved hbody
  exact ⟨p, q, g, es, hpos, hcase, hmoved⟩

/-! ### TRAILER_CHECKED -/

/-- The sum of [s+4, T), which the compare computes (40_checksum.md R122). -/
def State.frameSum (s : State) : Byte :=
  sumOf s.byteAt (s.frameStart + 4) (s.trailerOffset - (s.frameStart + 4))

/-- The cases of a unit of TRAILER_CHECKED (42_integrity.md R154-R157; 45_orchestration.md R271, R272). -/
inductive TrailerCase (s : State) : TrailerPos → Pos → Regs → List Wires → Prop where
  | declared : s.trailerOffset < s.regs.len.toNat →
      TrailerCase s .declared (.trailer .compare) { s.regs with csumDecl := s.byteAt s.trailerOffset }
        [fieldEvent s.trailerOffset 1 .ftChecksum ((s.byteAt s.trailerOffset).setWidth 16)]
  | declaredAbsent : s.regs.len.toNat ≤ s.trailerOffset → TrailerCase s .declared (.trailer .endMark) s.regs []
  | matched : s.frameSum = s.regs.csumDecl →
      TrailerCase s .compare (.trailer .endMark)
        { s.regs with
          csumAcc := s.frameSum, csumCalc := s.frameSum
          status := setFlag (setFlag s.regs.status .csumChecked) .csumOk } []
  | mismatched : s.frameSum ≠ s.regs.csumDecl →
      TrailerCase s .compare (.trailer .endMark)
        { s.regs with
          csumAcc := s.frameSum, csumCalc := s.frameSum, status := setFlag s.regs.status .csumChecked }
        [diagEvent .error .checksumMismatch (s.frameSum.setWidth 16) (s.regs.csumDecl.setWidth 16)]
  | endMark : s.trailerOffset + 1 < s.regs.len.toNat →
      TrailerCase s .endMark (.trailer .leave) s.regs
        [fieldEvent (s.trailerOffset + 1) 1 .ftEnd ((s.byteAt (s.trailerOffset + 1)).setWidth 16)]
  | endMarkAbsent : s.regs.len.toNat ≤ s.trailerOffset + 1 → TrailerCase s .endMark (.trailer .leave) s.regs []
  | leave : TrailerCase s .leave .done { s.regs with status := statusAtDone s.regs.status } []

/-- A sum that could be read is the sum of the range's bytes (40_checksum.md R120). -/
theorem State.sumFrom_ok {s : State} {n a : Nat} {acc c : Byte} (h : s.sumFrom a n acc = .ok c) :
    c = acc + sumOf s.byteAt a n := by
  induction n generalizing a acc with
  | zero => simpa [State.sumFrom, sumOf, eq_comm] using h
  | succ n ih =>
    simp only [State.sumFrom] at h
    split at h
    next b hread =>
      obtain ⟨_, rfl⟩ := (State.readByte_eq_ok _ _ _).1 hread
      rw [ih h, sumOf, BitVec.add_assoc]
    next => cases h

theorem trailerUnit_moved {s t : State} {p : TrailerPos} (h : trailerUnit p s = .ok t) :
    ∃ q g es, TrailerCase s p q g es ∧ Moved s t q g es := by
  cases p with
  | declared =>
    obtain ⟨hlen, rfl⟩ | ⟨hlen, rfl⟩ := declaredUnit_ok s t h
    · exact ⟨_, _, _, .declared hlen, moved_emit s _ _ _⟩
    · exact ⟨_, _, _, .declaredAbsent hlen, moved_goto s _⟩
  | compare =>
    obtain ⟨c, hsum, hcase⟩ := compareUnit_ok s t h
    have hc : c = s.frameSum := (State.sumFrom_ok hsum).trans (BitVec.zero_add _)
    subst hc
    obtain ⟨hsame, rfl⟩ | ⟨hdiffer, rfl⟩ := hcase
    · exact ⟨_, _, _, .matched hsame, moved_setRegs_goto s _ _⟩
    · exact ⟨_, _, _, .mismatched hdiffer, moved_emit s _ _ _⟩
  | endMark =>
    obtain ⟨hlen, rfl⟩ | ⟨hlen, rfl⟩ := endMarkUnit_ok s t h
    · exact ⟨_, _, _, .endMark hlen, moved_emit s s.regs _ _⟩
    · exact ⟨_, _, _, .endMarkAbsent hlen, moved_goto s _⟩
  | leave =>
    obtain rfl := Except.ok.inj h
    exact ⟨_, _, _, .leave, moved_setRegs_goto s _ _⟩

/-! ### A unit of any phase -/

/-- The cases of a unit of a running transaction's work, by phase (45_orchestration.md R261). -/
inductive UnitCase (s : State) : Pos → Regs → List Wires → Prop where
  | scan {q g} : s.pos = .scanning → ScanCase s q g → UnitCase s q g []
  | found {p q g es} : s.pos = .foundFrame p → FoundCase s p q g es → UnitCase s q g es
  | header {p q g es} : s.pos = .header p → HeaderCase s p q g es → UnitCase s q g es
  | body {p q g es} (i : Instr) : s.pos = .payload p → decodeSub s.regs.sub = .ok i →
      BodyCase (dispatch i.code) s p q g es → UnitCase s q g es
  | noBody {p} (e : DecodeError) : s.pos = .payload p → decodeSub s.regs.sub = .error e →
      UnitCase s (.trailer .declared) s.regs []
  | trailer {p q g es} : s.pos = .trailer p → TrailerCase s p q g es → UnitCase s q g es

/-- The fetch is the decoder at the one byte SUB (43_dispatch.md R170). -/
theorem State.fetch_eq (s : State) :
    s.fetch = match decodeSub s.regs.sub with | .ok i => .ok (i, []) | .error e => .error e := rfl

/-- The payload phase runs the meaning that SUB selects, and does nothing where SUB selects none (R172, R270). -/
theorem payloadUnit_eq (s : State) :
    payloadUnit s = match decodeSub s.regs.sub with
      | .ok i => exec i s
      | .error _ => .next (s.goto (.trailer .declared)) := by
  rw [payloadUnit, State.fetch_eq]
  cases decodeSub s.regs.sub <;> rfl

/-- A unit of a running transaction is one of the listed cases, and changes nothing else. -/
theorem workUnit_moved {s t : State} (hbusy : s.pos.busy = true) (h : workUnit s = .next t) :
    ∃ q g es, UnitCase s q g es ∧ Moved s t q g es := by
  cases hpos : s.pos with
  | idle | done => rw [hpos] at hbusy; cases hbusy
  | scanning =>
    simp only [workUnit, hpos, outcomeOf_next] at h
    obtain ⟨q, g, hcase, hmoved⟩ := scanUnit_moved hpos h
    exact ⟨q, g, [], .scan hpos hcase, hmoved⟩
  | foundFrame p =>
    simp only [workUnit, hpos, Host.Outcome.next.injEq] at h
    obtain ⟨q, g, es, hcase, hmoved⟩ := foundUnit_moved s p
    exact ⟨q, g, es, .found hpos hcase, h ▸ hmoved⟩
  | header p =>
    simp only [workUnit, hpos, outcomeOf_next] at h
    obtain ⟨q, g, es, hcase, hmoved⟩ := headerUnit_moved h
    exact ⟨q, g, es, .header hpos hcase, hmoved⟩
  | payload p =>
    simp only [workUnit, hpos, payloadUnit_eq] at h
    cases hsub : decodeSub s.regs.sub with
    | ok i =>
      rw [hsub] at h
      obtain ⟨p', q, g, es, hpos', hcase, hmoved⟩ := exec_moved h
      exact ⟨q, g, es, .body i hpos' hsub hcase, hmoved⟩
    | error e =>
      rw [hsub, Host.Outcome.next.injEq] at h
      exact ⟨_, _, _, .noBody e hpos hsub, h ▸ moved_goto s _⟩
  | trailer p =>
    simp only [workUnit, hpos, outcomeOf_next] at h
    obtain ⟨q, g, es, hcase, hmoved⟩ := trailerUnit_moved h
    exact ⟨q, g, es, .trailer hpos hcase, hmoved⟩

end Sys2Proof.Machine
end

section
/-!
SUPPORT. What the cases of a unit keep: the events they emit, the registers and STATUS bits they leave, the phases they
lead to. The statements about one body unit and about one step without RST are uses of it.
-/

namespace Sys2Proof.Machine

/-! ### The events of a unit -/

/-- A FIELD event as 45_orchestration.md R268, R269 have it, inside a buffer of this length, and not the declared
checksum's. -/
structure PlainField (len : Nat) (w : Wires) : Prop where
  field : w.diag = false
  tagged : ∃ tag : Tag, tag ≠ .ftChecksum ∧ w.tag = tag.code
  raw : w.raw = true → w.val = 0
  inside : w.off.toNat + w.len.toNat ≤ len

/-- Offsets and lengths on the wires are at most those they were made from (R14). -/
theorem ofNat_add_ofNat_le {off n len : Nat} (h : off + n ≤ len) :
    (BitVec.ofNat 16 off).toNat + (BitVec.ofNat 16 n).toNat ≤ len := by
  rw [BitVec.toNat_ofNat, BitVec.toNat_ofNat]
  exact (Nat.add_le_add (Nat.mod_le _ _) (Nat.mod_le _ _)).trans h

theorem plainField_fieldEvent {len off n : Nat} {tag : Tag} (v : Word) (h : off + n ≤ len) (htag : tag ≠ .ftChecksum) :
    PlainField len (fieldEvent off n tag v) :=
  ⟨rfl, ⟨tag, htag, rfl⟩, fun hraw => absurd hraw Bool.false_ne_true, ofNat_add_ofNat_le h⟩

theorem plainField_rawEvent {len off n : Nat} {tag : Tag} (h : off + n ≤ len) (htag : tag ≠ .ftChecksum) :
    PlainField len (rawEvent off n tag) :=
  ⟨rfl, ⟨tag, htag, rfl⟩, fun _ => rfl, ofNat_add_ofNat_le h⟩

theorem plainField_subEvents {len off n : Nat} {layout : List SubField} (v : Word) (h : off + n ≤ len)
    (htags : ∀ f ∈ layout, f.tag ≠ .ftChecksum) : ∀ w ∈ subEvents layout off n v, PlainField len w := by
  intro w hw
  obtain ⟨f, hf, rfl⟩ := List.mem_map.1 hw
  exact plainField_fieldEvent _ h (htags f hf)

/-- No record shape has the declared checksum's tag (the table of R206). -/
theorem shapeOf_tags {c : Params} {k : Kind} {sh : Shape} (h : shapeOf c k = some sh) :
    (∀ f ∈ sh.lead, f.tag ≠ .ftChecksum ∧ ∀ x ∈ f.subs, x.tag ≠ .ftChecksum) ∧ sh.varTag ≠ some .ftChecksum := by
  cases k <;> simp only [shapeOf, reduceCtorEq, Option.some.injEq] at h <;> subst h <;>
    simp [stateFields, configFields]

theorem viewType_tags (v : ViewType) : ∀ f ∈ v.layout, f.tag ≠ .ftChecksum := by
  cases v <;> simp [ViewType.layout]

theorem plainField_leadEvents {c : Params} {k : Kind} {sh : Shape} (hshape : shapeOf c k = some sh) {f : LeadField}
    (hf : f ∈ sh.lead) {len a : Nat} (v : Word) (h : a + f.off + f.width ≤ len) :
    ∀ w ∈ leadEvents f a v, PlainField len w := by
  obtain ⟨hlead, _⟩ := shapeOf_tags hshape
  obtain ⟨htag, hsubs⟩ := hlead f hf
  intro w hw
  obtain rfl | hw := List.mem_cons.1 hw
  · exact plainField_fieldEvent _ h htag
  · exact plainField_subEvents _ h hsubs w hw

theorem plainField_variableEvents {c : Params} {k : Kind} {sh : Shape} (hshape : shapeOf c k = some sh)
    {len a n : Nat} (h : a + sh.size + n ≤ len) : ∀ w ∈ variableEvents sh a n, PlainField len w := by
  obtain ⟨_, htag⟩ := shapeOf_tags hshape
  intro w hw
  unfold variableEvents at hw
  split at hw
  next tag hvar =>
    obtain rfl := List.mem_singleton.1 hw
    exact plainField_rawEvent h fun heq => htag (hvar.trans (congrArg some heq))
  next => cases hw

theorem plainField_viewPart (b : Nat → Byte) (table : List (Nat × ViewType)) (sh : Shape) {len a n : Nat}
    (h : viewPart b table sh a n = [] ∨ a + sh.size + n ≤ len) : ∀ w ∈ viewPart b table sh a n, PlainField len w := by
  intro w hw
  obtain h | h := h
  · rw [h] at hw; cases hw
  · unfold viewPart at hw
    split at hw
    · split at hw
      next v hview => exact plainField_subEvents _ h (viewType_tags v) w hw
      next => cases hw
    · cases hw

theorem listHeaderTag_ne (idxhdr : Bool) : listHeaderTag idxhdr ≠ .ftChecksum := by cases idxhdr <;> decide

theorem headerTags_ne {k : Nat} {tag : Tag} (h : headerTags[k]? = some tag) : tag ≠ .ftChecksum := by
  have hall : ∀ tag ∈ headerTags, tag ≠ .ftChecksum := by decide
  exact hall tag (List.mem_of_getElem? h)

variable {m : MuxOut} {s : State} {q : Pos} {g : Regs} {es : List Wires}

theorem BodyCase.plainField {p : BodyPos} (h : BodyCase m s p q g es) : ∀ w ∈ es, PlainField s.regs.len.toNat w := by
  cases h with
  | startId hlen => exact List.forall_mem_singleton.2 (plainField_fieldEvent _ hlen (listHeaderTag_ne _))
  | count hlen => exact List.forall_mem_singleton.2 (plainField_fieldEvent _ hlen (by decide))
  | errorCode hsel hlen => exact List.forall_mem_singleton.2 (plainField_fieldEvent _ hlen (by decide))
  | filter hsel hlen => exact List.forall_mem_singleton.2 (plainField_fieldEvent _ hlen (by decide))
  | lead sh k f hshape hfield hlen => exact plainField_leadEvents hshape (List.mem_of_getElem? hfield) _ hlen
  | rawData sh hshape hlen => exact plainField_variableEvents hshape hlen
  | view sh n hshape hfits => exact plainField_viewPart _ _ sh hfits
  | startIdAbsent | countAbsent | selectNothing | selectRecords | selectAbsent | noRecords | recordsEnd | recordFits
  | recordAbsent | leadEnd | rawDataAbsent | advance | leave => exact List.forall_mem_nil _

theorem HeaderCase.plainField {p : HeaderPos} (h : HeaderCase s p q g es) : ∀ w ∈ es, PlainField s.regs.len.toNat w := by
  cases h with
  | field k tag htag hlen => exact List.forall_mem_singleton.2 (plainField_fieldEvent _ hlen (headerTags_ne htag))
  | sub hlen => exact List.forall_mem_singleton.2 (plainField_fieldEvent _ hlen (by decide))
  | fieldsEnd | subAbsent | dispatched | unknown | leave => exact List.forall_mem_nil _

/-- What the event port can carry (R268, R269; 60_exceptions.md R318), with every FIELD event inside the buffer. -/
inductive EncodedEvent (len : Nat) (w : Wires) : Prop where
  | plain : PlainField len w → EncodedEvent len w
  | checksum : w.diag = false → w.tag = Tag.ftChecksum.code → w.raw = false → w.off.toNat + w.len.toNat ≤ len →
      EncodedEvent len w
  | incomplete (a : Word) : w = diagEvent .warning .frameIncomplete a 0 → EncodedEvent len w
  | mismatch (a b : Word) : w = diagEvent .error .checksumMismatch a b → EncodedEvent len w

theorem EncodedEvent.insideBuffer {len : Nat} {w : Wires} (h : EncodedEvent len w) : insideBuffer len w := by
  cases h with
  | plain hplain => exact fun _ => hplain.inside
  | checksum _ _ _ hinside => exact fun _ => hinside
  | incomplete a hw => subst hw; exact fun hdiag => absurd hdiag.symm Bool.false_ne_true
  | mismatch a b hw => subst hw; exact fun hdiag => absurd hdiag.symm Bool.false_ne_true

theorem TrailerCase.encoded {p : TrailerPos} (h : TrailerCase s p q g es) :
    ∀ w ∈ es, EncodedEvent s.regs.len.toNat w := by
  cases h with
  | declared hlen => exact List.forall_mem_singleton.2 (.checksum rfl rfl rfl (ofNat_add_ofNat_le hlen))
  | mismatched => exact List.forall_mem_singleton.2 (.mismatch _ _ rfl)
  | endMark hlen => exact List.forall_mem_singleton.2 (.plain (plainField_fieldEvent _ hlen (by decide)))
  | declaredAbsent | matched | endMarkAbsent | leave => exact List.forall_mem_nil _

theorem FoundCase.encoded {p : FoundPos} (h : FoundCase s p q g es) : ∀ w ∈ es, EncodedEvent s.regs.len.toNat w := by
  cases h with
  | incomplete => exact List.forall_mem_singleton.2 (.incomplete _ rfl)
  | complete | leave => exact List.forall_mem_nil _

/-- Whatever a unit emits is an event of R268 or one of the two diagnostics, inside the buffer (R62). -/
theorem UnitCase.encoded (h : UnitCase s q g es) : ∀ w ∈ es, EncodedEvent s.regs.len.toNat w := by
  cases h with
  | scan | noBody => exact List.forall_mem_nil _
  | found _ hcase => exact hcase.encoded
  | header _ hcase => exact fun w hw => .plain (hcase.plainField w hw)
  | body _ _ _ hcase => exact fun w hw => .plain (hcase.plainField w hw)
  | trailer _ hcase => exact hcase.encoded

/-! ### The registers that a body leaves alone -/

/-- The STATUS bits that a body can set (44_record_streams.md R200). -/
def bodyBits : List StatusBit := [.startIdValid, .countValid, .errcodeValid, .trunc]

/-- From `g` to `k` only what a body may write has been written: START_ID, COUNT, ERRCODE, CUR, IDX, REC_DONE, and in
STATUS the bits of `bodyBits`, which are only set (R200; 10_state.md R41). -/
structure BodyKeeps (g k : Regs) : Prop where
  len : k.len = g.len
  startOff : k.startOff = g.startOff
  dlen : k.dlen = g.dlen
  ctrl : k.ctrl = g.ctrl
  toff : k.toff = g.toff
  sub : k.sub = g.sub
  kind : k.kind = g.kind
  csumDecl : k.csumDecl = g.csumDecl
  csumCalc : k.csumCalc = g.csumCalc
  scanI : k.scanI = g.scanI
  ftFound : k.ftFound = g.ftFound
  csumAcc : k.csumAcc = g.csumAcc
  flag : ∀ f, f ∉ bodyBits → getFlag k.status f = getFlag g.status f
  kept : ∀ f, getFlag g.status f = true → getFlag k.status f = true
  reserved : k.status &&& 0xE000 = g.status &&& 0xE000

theorem BodyKeeps.trans {g k l : Regs} (h : BodyKeeps g k) (h' : BodyKeeps k l) : BodyKeeps g l :=
  ⟨h'.len.trans h.len, h'.startOff.trans h.startOff, h'.dlen.trans h.dlen, h'.ctrl.trans h.ctrl, h'.toff.trans h.toff,
    h'.sub.trans h.sub, h'.kind.trans h.kind, h'.csumDecl.trans h.csumDecl, h'.csumCalc.trans h.csumCalc,
    h'.scanI.trans h.scanI, h'.ftFound.trans h.ftFound, h'.csumAcc.trans h.csumAcc,
    fun f hf => (h'.flag f hf).trans (h.flag f hf), fun f hf => h'.kept f (h.kept f hf), h'.reserved.trans h.reserved⟩

/-- Registers that differ in those a body may write, and in STATUS by one bit of `bodyBits` at most. -/
theorem bodyKeeps_of {g k : Regs}
    (hregs : k = { g with
      startId := k.startId, count := k.count, errcode := k.errcode, cur := k.cur, idx := k.idx, recDone := k.recDone
      status := k.status })
    (hstatus : k.status = g.status ∨ ∃ x ∈ bodyBits, k.status = setFlag g.status x) : BodyKeeps g k where
  len := by rw [hregs]
  startOff := by rw [hregs]
  dlen := by rw [hregs]
  ctrl := by rw [hregs]
  toff := by rw [hregs]
  sub := by rw [hregs]
  kind := by rw [hregs]
  csumDecl := by rw [hregs]
  csumCalc := by rw [hregs]
  scanI := by rw [hregs]
  ftFound := by rw [hregs]
  csumAcc := by rw [hregs]
  flag f hf := by
    obtain h | ⟨x, hx, h⟩ := hstatus
    · rw [h]
    · rw [h, getFlag_setFlag_other _ x f fun heq => hf (heq ▸ hx)]
  kept f hf := by
    obtain h | ⟨x, _, h⟩ := hstatus
    · rwa [h]
    · rw [h, getFlag_setFlag, hf, Bool.true_or]
  reserved := by
    obtain h | ⟨x, _, h⟩ := hstatus
    · rw [h]
    · rw [h, reserved_setFlag]

theorem BodyKeeps.refl (g : Regs) : BodyKeeps g g := bodyKeeps_of rfl (.inl rfl)

theorem bodyKeeps_truncated (g : Regs) : BodyKeeps g (g.flagged .trunc) :=
  bodyKeeps_of rfl (.inr ⟨.trunc, by decide, rfl⟩)

theorem BodyCase.keeps {p : BodyPos} (h : BodyCase m s p q g es) : BodyKeeps s.regs g := by
  cases h with
  | startId => exact bodyKeeps_of rfl (.inr ⟨.startIdValid, by decide, rfl⟩)
  | count => exact bodyKeeps_of rfl (.inr ⟨.countValid, by decide, rfl⟩)
  | errorCode => exact bodyKeeps_of rfl (.inr ⟨.errcodeValid, by decide, rfl⟩)
  | selectNothing | selectRecords | filter | advance => exact bodyKeeps_of rfl (.inl rfl)
  | selectAbsent => exact bodyKeeps_of rfl (.inr ⟨.trunc, by decide, rfl⟩)
  | startIdAbsent | countAbsent | recordAbsent | rawDataAbsent => exact bodyKeeps_truncated _
  | noRecords | recordsEnd | recordFits | lead | leadEnd | rawData | view | leave => exact BodyKeeps.refl _

/-- Only an answer's selection can be the error code (R203; 30_encoding.md R89). -/
theorem selectionOf_request {i : Instr} (h : i.code.toNat < 0x80) (count : Word) :
    selectionOf (dispatch i.code) count ≠ .errorCode := by
  cases i with
  | getServerItemReq | setServerItemReq | getDatapointDescriptionReq | getDescriptionStringReq | getDatapointValueReq
  | setDatapointValueReq | getParameterByteReq | request08Req => exact Selection.noConfusion
  | getServerItemRes | setServerItemRes | getDatapointDescriptionRes | getDescriptionStringRes | getDatapointValueRes
  | setDatapointValueRes | getParameterByteRes | response88Res | datapointValueInd | serverItemInd =>
    exact absurd h (by decide)

/-- ERRCODE and its VALID bit are written by the error code alone, which a request does not have (R203). -/
theorem BodyCase.errcode_of_request {i : Instr} {p : BodyPos} (h : BodyCase (dispatch i.code) s p q g es)
    (hreq : i.code.toNat < 0x80) :
    g.errcode = s.regs.errcode ∧ getFlag g.status .errcodeValid = getFlag s.regs.status .errcodeValid := by
  cases h with
  | errorCode hsel => exact absurd hsel (selectionOf_request hreq _)
  | startId | count | startIdAbsent | countAbsent | recordAbsent | rawDataAbsent | selectAbsent =>
    exact ⟨rfl, getFlag_setFlag_other _ _ _ (by decide)⟩
  | selectNothing | selectRecords | filter | advance | noRecords | recordsEnd | recordFits | lead | leadEnd | rawData
  | view | leave => exact ⟨rfl, rfl⟩

/-- The sub-services of the table of R206 are those whose kind has a record shape. -/
theorem mem_prefixSizes_of_shape {c : Params} {i : Instr} {sh : Shape} (h : shapeOf c (dispatch i.code).kind = some sh) :
    ∃ n, (i, n) ∈ prefixSizes := by
  rw [dispatch_kind] at h
  cases i with
  | setServerItemReq | getServerItemRes | serverItemInd => exact ⟨3, by decide⟩
  | setDatapointValueReq | getDatapointValueRes | datapointValueInd => exact ⟨4, by decide⟩
  | getDatapointDescriptionRes => exact ⟨5, by decide⟩
  | getDescriptionStringRes => exact ⟨2, by decide⟩
  | getParameterByteRes => exact ⟨1, by decide⟩
  | getServerItemReq | getDatapointDescriptionReq | getDescriptionStringReq | getDatapointValueReq
  | getParameterByteReq | request08Req | setServerItemRes | setDatapointValueRes | response88Res => cases h

/-- REC_DONE is counted by the advance alone, which only a list kind has (R209). -/
theorem BodyCase.recDone_of_noRecords {i : Instr} {p : BodyPos} (h : BodyCase (dispatch i.code) s p q g es)
    (hnone : ∀ n, (i, n) ∉ prefixSizes) : g.recDone = s.regs.recDone := by
  cases h with
  | advance sh n hshape =>
    obtain ⟨n, hmem⟩ := mem_prefixSizes_of_shape hshape
    exact absurd hmem (hnone n)
  | startId | count | errorCode | selectNothing | selectRecords | filter | selectAbsent | startIdAbsent | countAbsent
  | recordAbsent | rawDataAbsent | noRecords | recordsEnd | recordFits | lead | leadEnd | rawData | view | leave => rfl

/-- Settles O30: a meaning that answers has done one of the cases of its body's unit (`exec_moved`), each of which keeps
the registers of `BodyKeeps` and emits FIELD events alone; the error code is no request's and the advance no
sub-service's without records. -/
theorem bodyFrame : Obligations.BodyFrame := by
  intro i s t h
  obtain ⟨p, q, g, es, _, hcase, hmoved⟩ := exec_moved h
  have hk := hcase.keeps
  obtain rfl := hmoved.regs
  exact ⟨hmoved.around, hmoved.sink, fun a => by rw [hmoved.around.buf], hk.len, hk.startOff, hk.dlen, hk.ctrl,
    hk.toff, hk.sub, hk.kind, hk.csumDecl, hk.csumCalc, hk.scanI, hk.ftFound, hk.csumAcc, hk.flag, hk.reserved,
    ⟨es, hmoved.waiting, fun w hw => (hcase.plainField w hw).field⟩, hcase.errcode_of_request,
    hcase.recDone_of_noRecords⟩

/-! ### STATUS and PHASE in a unit of any phase -/

theorem ScanCase.kept (h : ScanCase s q g) {f : StatusBit} (hf : getFlag s.regs.status f = true) :
    getFlag g.status f = true ∨ (f = .busy ∧ q = .done) := by
  cases h with
  | short => by_cases hb : f = .busy <;> simp [getFlag_statusAtDone, getFlag_setFlag, hf, hb]
  | exhausted => by_cases hb : f = .busy <;> simp [getFlag_statusAtDone, hf, hb]
  | accepted => simp [getFlag_setFlag, hf]
  | rejected => exact .inl hf

/-- Within a transaction a STATUS bit is only ever set, BUSY on entry to DONE excepted (10_state.md R41). -/
theorem UnitCase.kept (h : UnitCase s q g es) {f : StatusBit} (hf : getFlag s.regs.status f = true) :
    getFlag g.status f = true ∨ (f = .busy ∧ q = .done) := by
  cases h with
  | scan _ hcase => exact hcase.kept hf
  | noBody => exact .inl hf
  | body _ _ _ hcase => exact .inl (hcase.keeps.kept f hf)
  | found _ hcase => cases hcase <;> simp [getFlag_setFlag, hf]
  | header _ hcase => cases hcase <;> simp [Regs.flagged, getFlag_setFlag, hf]
  | trailer _ hcase =>
    cases hcase with
    | leave => by_cases hb : f = .busy <;> simp [getFlag_statusAtDone, hf, hb]
    | declared | declaredAbsent | matched | mismatched | endMark | endMarkAbsent => simp [getFlag_setFlag, hf]

theorem mem_phaseStep_self (p : Phase) : p ∈ phaseStep p := by cases p <;> decide

theorem BodyCase.phase {p : BodyPos} (h : BodyCase m s p q g es) : q.phase ∈ phaseStep .payloadDecoded := by
  cases h with
  | leave => exact (by decide : Phase.trailerChecked ∈ phaseStep .payloadDecoded)
  | startId | count | errorCode | selectNothing | selectRecords | filter | selectAbsent | startIdAbsent | countAbsent
  | recordAbsent | rawDataAbsent | noRecords | recordsEnd | recordFits | lead | leadEnd | rawData | view | advance =>
    exact mem_phaseStep_self .payloadDecoded

theorem HeaderCase.phase {p : HeaderPos} (h : HeaderCase s p q g es) : q.phase ∈ phaseStep .headerDecoded := by
  cases h with
  | leave => exact (by decide : Phase.payloadDecoded ∈ phaseStep .headerDecoded)
  | field | fieldsEnd | sub | subAbsent | dispatched | unknown => exact mem_phaseStep_self .headerDecoded

/-- A unit moves PHASE only as the table of R261 has it, and never to IDLE. -/
theorem UnitCase.phase (h : UnitCase s q g es) : q.phase ∈ phaseStep s.pos.phase := by
  cases h with
  | scan hpos hcase => rw [hpos]; cases hcase <;> decide
  | noBody e hpos => rw [hpos]; exact (by decide : Phase.trailerChecked ∈ phaseStep .payloadDecoded)
  | body i hpos _ hcase => rw [hpos]; exact hcase.phase
  | found hpos hcase => rw [hpos]; cases hcase <;> decide
  | header hpos hcase => rw [hpos]; exact hcase.phase
  | trailer hpos hcase => rw [hpos]; cases hcase <;> decide

end Sys2Proof.Machine
end

section
/-!
SUPPORT. One step, by the cases of its cycle: what it does to the buffer and the configuration, to the events (45_orchestration.md
R267), to STATUS (10_state.md R41) and to PHASE (R261).
-/

namespace Sys2Proof.Machine

/-- A step that answers is the host's store, one case of the cycle, and the move to the host's next inputs. -/
theorem step_cases {s t : State} (h : step s = .next t) : ∃ u, CycleCase s.hostStore u ∧ t = u.elapse := by
  obtain ⟨u, hcycle, ht⟩ := (step_next s t).1 h
  exact ⟨u, cycle_next _ _ hcycle, ht⟩

/-- The block writes neither its buffer nor its configuration (20_memory.md R61, R71). -/
theorem CycleCase.buf_params {s u : State} (h : CycleCase s u) : u.buf = s.buf ∧ u.params = s.params := by
  cases h with
  | work u _ hbusy _ _ hwork =>
    obtain ⟨q, g, es, _, hmoved⟩ := workUnit_moved hbusy hwork
    exact ⟨hmoved.around.buf, hmoved.around.params⟩
  | reset | accept | stall | wait | start | rest => exact ⟨rfl, rfl⟩
  | present => exact ⟨State.present_buf s, State.present_params s⟩

/-- Settles O43: the cycle writes neither buffer nor configuration (`CycleCase.buf_params`), so what differs is the
host's store, read by `Memory.read_write`. -/
theorem blockNeverWritesBuffer : Obligations.BlockNeverWritesBuffer := by
  intro s t h
  obtain ⟨u, hcase, rfl⟩ := step_cases h
  obtain ⟨hbuf, hparams⟩ := hcase.buf_params
  rw [State.elapse_buf, State.elapse_params, hbuf, hparams, State.hostStore_params]
  refine ⟨rfl, fun hnone => by rw [State.hostStore_of_none s hnone], fun w a hstore => ?_⟩
  have hwritten : s.hostStore.buf = Memory.write s.buf w.addr.val w.byte := by simp only [State.hostStore, hstore]
  rw [hwritten, Memory.read_write]

theorem Moved.trace {s t : State} {q : Pos} {g : Regs} {es : List Wires} (h : Moved s t q g es) :
    t.trace = s.trace ++ es := by
  rw [State.trace, State.trace, h.sink, h.waiting, List.append_assoc]

/-- What one cycle without RST does to the events: it takes at most the oldest one to the sink, and appends at the end
only what a unit of work emits on an empty port (R267). -/
theorem CycleCase.events {s u : State} (h : CycleCase s u) (hrst : s.pins.rst = false) :
    ∃ es, u.trace = s.trace ++ es ∧ (s.waiting ≠ [] → es = []) ∧
      (u.sink = s.sink ∨ u.sink = s.sink ++ [s.pend.wires]) ∧ ∀ w ∈ es, EncodedEvent s.regs.len.toNat w := by
  cases h with
  | reset hset => exact absurd hset (by simp [hrst])
  | accept _ hvalid _ =>
    exact ⟨[], by rw [State.trace_accept s hvalid, List.append_nil], fun _ => rfl, .inr rfl, List.forall_mem_nil _⟩
  | stall | wait | rest => exact ⟨[], (List.append_nil _).symm, fun _ => rfl, .inl rfl, List.forall_mem_nil _⟩
  | present =>
    exact ⟨[], by rw [State.trace_present, List.append_nil], fun _ => rfl, .inl s.present_sink, List.forall_mem_nil _⟩
  | start => exact ⟨[], (List.append_nil _).symm, fun _ => rfl, .inl rfl, List.forall_mem_nil _⟩
  | work u _ hbusy _ hfree hwork =>
    obtain ⟨q, g, es, hcase, hmoved⟩ := workUnit_moved hbusy hwork
    exact ⟨es, hmoved.trace, fun hwaiting => absurd (s.waiting_of_free hfree) hwaiting, .inl hmoved.sink, hcase.encoded⟩

/-- The same of one step. -/
theorem step_events {s t : State} (h : step s = .next t) (hrst : s.pins.rst = false) :
    ∃ es, t.trace = s.trace ++ es ∧ (s.waiting ≠ [] → es = []) ∧
      (t.sink = s.sink ∨ t.sink = s.sink ++ [s.pend.wires]) ∧ ∀ w ∈ es, EncodedEvent s.regs.len.toNat w := by
  obtain ⟨u, hcase, rfl⟩ := step_cases h
  have hevents := hcase.events (by rw [State.hostStore_pins, hrst])
  rwa [State.trace_hostStore, State.waiting_hostStore, State.hostStore_sink, State.hostStore_pend,
    State.hostStore_regs, ← State.trace_elapse, ← State.elapse_sink] at hevents

/-- Settles O36: `step_events`. -/
theorem traceOnlyGrows : Obligations.TraceOnlyGrows := by
  intro s t hrst h
  obtain ⟨es, htrace, hwaiting, hsink, _⟩ := step_events h hrst
  exact ⟨es, htrace, hwaiting, hsink⟩

/-- Settles O37: the events a step adds are those of `step_events`, each of which is one of the encodings of R268 and
R318. -/
theorem emittedEventsEncoded : Obligations.EmittedEventsEncoded := by
  intro s t es hrst h htrace w hw
  obtain ⟨fs, hadded, _, _, hencoded⟩ := step_events h hrst
  obtain rfl : es = fs := List.append_cancel_left (htrace.symm.trans hadded)
  cases hencoded w hw with
  | plain hplain =>
    obtain ⟨tag, _, htag⟩ := hplain.tagged
    exact .inl ⟨hplain.field, ⟨tag, htag⟩, hplain.raw⟩
  | checksum hfield htag hraw _ => exact .inl ⟨hfield, ⟨_, htag⟩, fun hset => absurd hset (by simp [hraw])⟩
  | incomplete a hdiag => subst hdiag; exact .inr (.inl ⟨rfl, rfl, rfl, rfl, rfl⟩)
  | mismatch a b hdiag => subst hdiag; exact .inr (.inr ⟨rfl, rfl, rfl, rfl⟩)

theorem Pos.busy_ne_done {p : Pos} (h : p.busy = true) : p ≠ .done := fun heq => by rw [heq] at h; cases h

/-- Without RST and an accepted START only a unit of work touches STATUS (R41). -/
theorem CycleCase.kept {s u : State} {f : StatusBit} (h : CycleCase s u) (hrst : s.pins.rst = false)
    (hquiet : s.pos.busy = true ∨ s.pins.start = false) (hf : s.flag f = true) :
    u.flag f = true ∨ (f = .busy ∧ s.pos ≠ .done ∧ u.pos = .done) := by
  cases h with
  | reset hset => exact absurd hset (by simp [hrst])
  | accept | stall | wait | rest => exact .inl hf
  | present => exact .inl (by rwa [State.flag, State.present_regs])
  | start _ _ hidle hstart => simp [hidle, hstart] at hquiet
  | work u _ hbusy _ _ hwork =>
    obtain ⟨q, g, es, hcase, hmoved⟩ := workUnit_moved hbusy hwork
    rw [State.flag, hmoved.regs, hmoved.pos]
    exact (hcase.kept hf).imp_right fun ⟨hb, hdone⟩ => ⟨hb, Pos.busy_ne_done hbusy, hdone⟩

/-- Settles O42: `CycleCase.kept`; neither the host's store nor its next inputs touch STATUS. -/
theorem statusBitsOnlySet : Obligations.StatusBitsOnlySet := by
  intro s t f hrst hquiet h hf
  obtain ⟨u, hcase, rfl⟩ := step_cases h
  have hkept := hcase.kept (f := f) (by rwa [State.hostStore_pins])
    (by rwa [State.hostStore_pos, State.hostStore_pins]) (by rwa [State.flag, State.hostStore_regs])
  rwa [State.hostStore_pos, ← u.elapse_pos, State.flag, ← u.elapse_regs] at hkept

/-- RST leads to IDLE; a unit moves PHASE as the table of R261 has it, START from IDLE and DONE to SCANNING, and every
other case leaves it. -/
theorem CycleCase.phase {s u : State} (h : CycleCase s u) :
    if s.pins.rst then u.pos.phase = .idle else u.pos.phase ∈ phaseStep s.pos.phase := by
  cases h with
  | reset hset => rw [if_pos hset]; rfl
  | accept hrst | stall hrst | wait hrst | rest hrst =>
    rw [if_neg (by simp [hrst])]
    exact mem_phaseStep_self _
  | present hrst =>
    rw [if_neg (by simp [hrst]), State.present_pos]
    exact mem_phaseStep_self _
  | start hrst _ hidle _ =>
    rw [if_neg (by simp [hrst]), State.beginTransaction_pos]
    obtain hpos | hpos := (Pos.busy_eq_false_iff _).1 hidle <;> rw [hpos] <;> decide
  | work u hrst hbusy _ _ hwork =>
    obtain ⟨q, g, es, hcase, hmoved⟩ := workUnit_moved hbusy hwork
    rw [if_neg (by simp [hrst]), hmoved.pos]
    exact hcase.phase

/-- Settles O44: `CycleCase.phase`; neither the host's store nor its next inputs touch PHASE. -/
theorem phaseTransitions : Obligations.PhaseTransitions := by
  intro s t h
  obtain ⟨u, hcase, rfl⟩ := step_cases h
  have hphase := hcase.phase
  rwa [State.hostStore_pos, State.hostStore_pins, ← u.elapse_pos] at hphase

end Sys2Proof.Machine
end

section
/-!
SUPPORT. The machine's invariant in parts: what it says of STATUS, of the counts, of the mux's output and of the position.
`Sound` is the invariant without the buffer's canonical form (`inv_iff`); each part is kept by each case of a unit.
-/

namespace Sys2Proof.Machine

/-! ### The parts of the invariant -/

/-- STATUS agrees with PHASE and with the compare (10_state.md R40, R262, R272, R306). -/
structure StatusSound (p : Pos) (g : Regs) : Prop where
  reserved : g.status &&& 0xE000 = 0
  busyBit : getFlag g.status .busy = p.busy
  doneBit : getFlag g.status .done = decide (p = .done)
  shortBit : getFlag g.status .short = true → getFlag g.status .recognized = false
  sumBit : getFlag g.status .csumOk = (getFlag g.status .csumChecked && g.csumCalc == g.csumDecl)

/-- REC_DONE counts with IDX, IDX is within COUNT, CUR within LEN (R33-R35). -/
structure CountSound (g : Regs) : Prop where
  counted : g.recDone = g.idx
  bounded : g.idx.toNat ≤ g.count.toNat
  cursor : g.cur.toNat ≤ g.len.toNat

/-- KIND is the mux's output for SUB, but for the position between the read of SUB and the dispatch (R27, R173). -/
structure MuxSound (p : Pos) (g : Regs) : Prop where
  kind : g.kind.toNat ≤ 9
  muxed : p ≠ .header .dispatch → g.kind = (dispatch g.sub).kind.code

theorem CountSound.of_eq {g k : Regs} (h : CountSound g) (hrec : k.recDone = g.recDone) (hidx : k.idx = g.idx)
    (hcount : k.count = g.count) (hcur : k.cur = g.cur) (hlen : k.len = g.len) : CountSound k :=
  ⟨by rw [hrec, hidx, h.counted], by rw [hidx, hcount]; exact h.bounded, by rw [hcur, hlen]; exact h.cursor⟩

theorem MuxSound.of_eq {p q : Pos} {g k : Regs} (h : MuxSound p g) (hp : p ≠ .header .dispatch) (hkind : k.kind = g.kind)
    (hsub : k.sub = g.sub) : MuxSound q k :=
  ⟨by rw [hkind]; exact h.kind, fun _ => by rw [hkind, hsub]; exact h.muxed hp⟩

/-- The invariant without the buffer's canonical form, on which no unit of work depends. -/
structure Sound (s : State) : Prop where
  status : StatusSound s.pos s.regs
  counts : CountSound s.regs
  mux : MuxSound s.pos s.regs
  scan : s.regs.scanI.toNat ≤ 5
  quiet : s.pos.busy = false → s.free
  events : ∀ w ∈ s.waiting, insideBuffer s.regs.len.toNat w
  placed : Placed s

theorem inv_iff (s : State) : Inv s ↔ Memory.wf s.buf = true ∧ Sound s :=
  ⟨fun h => ⟨h.buffer, ⟨⟨h.reserved, h.busyBit, h.doneBit, h.shortBit, h.sumBit⟩, ⟨h.counted, h.bounded, h.cursor⟩,
      ⟨h.kind, h.muxed⟩, h.scan, h.quiet, h.events, h.placed⟩⟩,
    fun ⟨hbuf, h⟩ => ⟨hbuf, h.status.reserved, h.status.busyBit, h.status.doneBit, h.status.shortBit, h.status.sumBit,
      h.scan, h.mux.kind, h.mux.muxed, h.quiet, h.counts.counted, h.counts.bounded, h.counts.cursor, h.events,
      h.placed⟩⟩

/-! ### What a frame's place and trailer need -/

/-- The registers that describe the accepted frame are as they were, and so is the buffer. -/
structure FrameKept (s t : State) : Prop where
  startOff : t.regs.startOff = s.regs.startOff
  len : t.regs.len = s.regs.len
  dlen : t.regs.dlen = s.regs.dlen
  ctrl : t.regs.ctrl = s.regs.ctrl
  recognized : t.flag .recognized = s.flag .recognized
  buf : t.buf = s.buf
  unstable : t.unstable = s.unstable

theorem FrameKept.located {s t : State} (h : FrameKept s t) (hs : Located s) : Located t :=
  ⟨h.recognized.trans hs.recognized, by rw [State.frameStart, h.startOff]; exact hs.offset,
    by rw [State.frameStart, h.startOff, h.len]; exact hs.present, by rw [h.len]; exact hs.long⟩

theorem FrameKept.controlKept {s t : State} (h : FrameKept s t) (hs : ControlKept s) : ControlKept t := by
  intro hunstable b hread
  rw [h.unstable] at hunstable
  rw [h.buf, State.frameStart, h.startOff] at hread
  rw [h.ctrl]
  exact hs hunstable b hread

theorem FrameKept.trailerSet {s t : State} (h : FrameKept s t) (htoff : t.regs.toff = s.regs.toff) (hs : TrailerSet s) :
    TrailerSet t := by
  rw [TrailerSet, State.trailerOffset, htoff, State.frameStart, h.startOff, h.dlen]
  exact hs

/-- What a position relies on depends on the registers, the configuration and, for CTRL, on the buffer. -/
theorem placed_of {s t : State} (hpos : t.pos = s.pos) (hregs : t.regs = s.regs) (hparams : t.params = s.params)
    (hcontrol : s.pos.busy = true → Located s → ControlKept s → ControlKept t) (h : Placed s) : Placed t := by
  have hlocated : Located s → Located t := fun hl =>
    ⟨by rw [State.flag, hregs]; exact hl.recognized, by rw [State.frameStart, hregs]; exact hl.offset,
      by rw [State.frameStart, hregs]; exact hl.present, by rw [hregs]; exact hl.long⟩
  obtain ⟨regs, pos, pend, burst, buf, params, unstable, pins, script, sink, tick⟩ := s
  obtain ⟨regs', pos', pend', burst', buf', params', unstable', pins', script', sink', tick'⟩ := t
  dsimp only at hpos hregs hparams
  subst hpos hregs hparams
  cases pos' with
  | idle | scanning => exact h
  | foundFrame p =>
    cases p with
    | verify | leave =>
      obtain ⟨hl, hc, hrest⟩ := h
      exact ⟨hlocated hl, hcontrol rfl hl hc, hrest⟩
  | header p =>
    obtain ⟨hl, hc, hrest⟩ := h
    exact ⟨hlocated hl, hcontrol rfl hl hc, hrest⟩
  | payload p =>
    obtain ⟨hl, hc, htrailer, hnotcompared, hbody⟩ := h
    exact ⟨hlocated hl, hcontrol rfl hl hc, htrailer, hnotcompared, by cases p <;> exact hbody⟩
  | trailer p =>
    obtain ⟨hl, hc, htrailer, hplaced⟩ := h
    exact ⟨hlocated hl, hcontrol rfl hl hc, htrailer, by cases p <;> exact hplaced⟩
  | done =>
    intro hrecognized
    obtain ⟨hl, htrailer⟩ := h hrecognized
    exact ⟨hlocated hl, htrailer⟩

/-- A body keeps the frame's description. -/
theorem BodyKeeps.frameKept {s : State} {g : Regs} (h : BodyKeeps s.regs g) (q : Pos) :
    FrameKept s ((s.setRegs g).goto q) :=
  ⟨h.startOff, h.len, h.dlen, h.ctrl, h.flag .recognized (by decide), rfl, rfl⟩

theorem BodyKeeps.notCompared {s : State} {g : Regs} (h : BodyKeeps s.regs g) (q : Pos) (hs : NotCompared s) :
    NotCompared ((s.setRegs g).goto q) :=
  (h.flag .csumChecked (by decide)).trans hs

/-! ### STATUS -/

/-- The STATUS bits that the invariant ties to the phase and to the compare. -/
def phaseBits : List StatusBit := [.busy, .done, .short, .recognized, .csumOk, .csumChecked]

/-- Inside a transaction, with the bits of `phaseBits` and the compared registers as they were, the position does not
matter. -/
theorem StatusSound.moved {p q : Pos} {g k : Regs} (h : StatusSound p g) (hp : p.busy = true) (hq : q.busy = true)
    (hflag : ∀ f ∈ phaseBits, getFlag k.status f = getFlag g.status f)
    (hreserved : k.status &&& 0xE000 = g.status &&& 0xE000)
    (hsum : getFlag g.status .csumChecked = true → k.csumCalc = g.csumCalc ∧ k.csumDecl = g.csumDecl) :
    StatusSound q k where
  reserved := hreserved.trans h.reserved
  busyBit := by rw [hflag _ (by decide), h.busyBit, hp, hq]
  doneBit := by
    rw [hflag _ (by decide), h.doneBit, decide_eq_false (Pos.busy_ne_done hp), decide_eq_false (Pos.busy_ne_done hq)]
  shortBit := by rw [hflag _ (by decide), hflag _ (by decide)]; exact h.shortBit
  sumBit := by
    rw [hflag _ (by decide), hflag .csumChecked (by decide), h.sumBit]
    cases hchecked : getFlag g.status .csumChecked with
    | false => rfl
    | true => obtain ⟨hcalc, hdecl⟩ := hsum hchecked; rw [hcalc, hdecl]

/-- The same where one STATUS bit outside `phaseBits` has been set. -/
theorem StatusSound.flagged {p q : Pos} {g k : Regs} (h : StatusSound p g) (hp : p.busy = true) (hq : q.busy = true)
    {x : StatusBit} (hx : x ∉ phaseBits) (hstatus : k.status = setFlag g.status x)
    (hsum : getFlag g.status .csumChecked = true → k.csumCalc = g.csumCalc ∧ k.csumDecl = g.csumDecl) :
    StatusSound q k :=
  h.moved hp hq (fun f hf => by rw [hstatus, getFlag_setFlag_other _ x f fun heq => hx (heq ▸ hf)])
    (by rw [hstatus, reserved_setFlag]) hsum

/-- Entry to DONE: DONE is set, BUSY cleared, nothing else (R272). -/
theorem StatusSound.enterDone {p : Pos} {g k : Regs} (h : StatusSound p g) (hstatus : k.status = statusAtDone g.status)
    (hcalc : k.csumCalc = g.csumCalc) (hdecl : k.csumDecl = g.csumDecl) : StatusSound .done k where
  reserved := by rw [hstatus]; exact reserved_statusAtDone _ h.reserved
  busyBit := by simp [hstatus, getFlag_statusAtDone, Pos.busy]
  doneBit := by simp [hstatus, getFlag_statusAtDone]
  shortBit := by simpa [hstatus, getFlag_statusAtDone] using h.shortBit
  sumBit := by simpa [hstatus, getFlag_statusAtDone, hcalc, hdecl] using h.sumBit

theorem BodyKeeps.statusSound {p q : Pos} {g k : Regs} (h : BodyKeeps g k) (hs : StatusSound p g) (hp : p.busy = true)
    (hq : q.busy = true) : StatusSound q k :=
  hs.moved hp hq
    (fun f hf => h.flag f ((by decide : ∀ f ∈ phaseBits, f ∉ bodyBits) f hf)) h.reserved
    (fun _ => ⟨h.csumCalc, h.csumDecl⟩)

/-! ### SCANNING -/

theorem State.passes_fits {s : State} {i : Nat} (h : s.passes i = true) : i + 6 ≤ s.regs.len.toNat := by
  simp only [State.passes, Bool.and_eq_true] at h
  exact ((State.guardedTest_iff s _ _).1 h.2).1

theorem State.passes_control {s : State} {i : Nat} (h : s.passes i = true) :
    ctrlSet.contains (s.byteAt (i + 4)) = true := by
  simp only [State.passes, Bool.and_eq_true] at h
  exact ((State.guardedTest_iff s _ _).1 h.1.2).2

theorem scanI_toNat {i : Nat} (h : i ≤ 5) : (BitVec.ofNat 3 i).toNat = i := by
  rw [BitVec.toNat_ofNat, Nat.mod_eq_of_lt (by omega)]

variable {s : State} {q : Pos} {g : Regs} {es : List Wires}

/-- The registers that an accepted candidate leaves (R137). -/
def State.acceptedRegs (s : State) : Regs :=
  { s.regs with
    ftFound := s.ftFoundAt s.regs.scanI.toNat
    startOff := BitVec.ofNat 3 s.regs.scanI.toNat
    dlen := s.byteAt (s.regs.scanI.toNat + 1), ctrl := s.byteAgain (s.regs.scanI.toNat + 4)
    status := setFlag s.regs.status .recognized }

theorem located_accepted {t : State} (hlen : 10 ≤ s.regs.len.toNat) (hpass : s.passes s.regs.scanI.toNat = true)
    (hi : s.regs.scanI.toNat < 5) (hregs : t.regs = s.acceptedRegs) : Located t := by
  have hstart : t.frameStart = s.regs.scanI.toNat := by rw [State.frameStart, hregs]; exact scanI_toNat (by omega)
  refine ⟨?_, by omega, ?_, by rw [hregs]; exact hlen⟩
  · rw [State.flag, hregs]; exact getFlag_setFlag_same _ _
  · rw [hstart, hregs]; exact State.passes_fits hpass

/-- Where the buffer is left alone CTRL is the byte that test 3 has read (R137). -/
theorem controlKept_accepted {t : State} (hpass : s.passes s.regs.scanI.toNat = true)
    (hi : s.regs.scanI.toNat < 5) (hregs : t.regs = s.acceptedRegs) (hbuf : t.buf = s.buf)
    (hunstable : t.unstable = s.unstable) : ControlKept t := by
  have hstart : t.frameStart = s.regs.scanI.toNat := by rw [State.frameStart, hregs]; exact scanI_toNat (by omega)
  intro hstable b hread
  rw [hstart, hbuf] at hread
  rw [hunstable] at hstable
  have hbyte : s.byteAt (s.regs.scanI.toNat + 4) = b := by simp [State.byteAt, hstable, hread]
  have hagain := s.byteAgain_of_backed (s.regs.scanI.toNat + 4) hstable (by simp [hread])
  rw [hregs]
  exact ⟨hagain.trans hbyte, hbyte ▸ State.passes_control hpass⟩

/-- What a unit must leave for the invariant to go on, apart from the events. -/
structure SoundAfter (s : State) (q : Pos) (g : Regs) : Prop where
  status : StatusSound q g
  counts : CountSound g
  mux : MuxSound q g
  scan : g.scanI.toNat ≤ 5
  placed : Placed ((s.setRegs g).goto q)

theorem ScanCase.sound (h : ScanCase s q g) (hpos : s.pos = .scanning) (hs : Sound s) : SoundAfter s q g := by
  obtain ⟨hrecognized, hshort, hnorecord, hnotcompared⟩ : s.flag .recognized = false ∧ s.flag .short = false ∧
      NoRecord s ∧ NotCompared s := by simpa only [Placed, hpos] using hs.placed
  rw [State.flag] at hrecognized hshort
  have hstatus : StatusSound .scanning s.regs := hpos ▸ hs.status
  have hmux : MuxSound .scanning s.regs := hpos ▸ hs.mux
  cases h with
  | short hlen =>
    have hset : StatusSound .scanning { s.regs with status := setFlag s.regs.status .short } := by
      refine ⟨(reserved_setFlag _ _).trans hstatus.reserved, ?_, ?_, fun _ => ?_, ?_⟩
      · exact (getFlag_setFlag_other _ _ _ (by decide)).trans hstatus.busyBit
      · exact (getFlag_setFlag_other _ _ _ (by decide)).trans hstatus.doneBit
      · exact (getFlag_setFlag_other _ _ _ (by decide)).trans hrecognized
      · rw [getFlag_setFlag_other _ _ _ (by decide), getFlag_setFlag_other _ _ _ (by decide)]
        exact hstatus.sumBit
    refine ⟨hset.enterDone rfl rfl rfl, hs.counts.of_eq rfl rfl rfl rfl rfl, hmux.of_eq nofun rfl rfl, hs.scan,
      fun hset => absurd hset ?_⟩
    simp [State.flag, getFlag_statusAtDone, getFlag_setFlag, hrecognized]
  | exhausted hlen hend =>
    refine ⟨hstatus.enterDone rfl rfl rfl, hs.counts.of_eq rfl rfl rfl rfl rfl, hmux.of_eq nofun rfl rfl, hs.scan,
      fun hset => absurd hset ?_⟩
    simp [State.flag, getFlag_statusAtDone, hrecognized]
  | accepted hlen hi hpass =>
    refine ⟨⟨(reserved_setFlag _ _).trans hstatus.reserved, ?_, ?_, fun hset => ?_, ?_⟩,
      hs.counts.of_eq rfl rfl rfl rfl rfl, hmux.of_eq nofun rfl rfl, hs.scan, located_accepted hlen hpass hi rfl,
      controlKept_accepted hpass hi rfl rfl rfl, hnorecord, ?_⟩
    · exact (getFlag_setFlag_other _ _ _ (by decide)).trans hstatus.busyBit
    · exact (getFlag_setFlag_other _ _ _ (by decide)).trans hstatus.doneBit
    · rw [getFlag_setFlag_other _ _ _ (by decide), hshort] at hset
      cases hset
    · rw [getFlag_setFlag_other _ _ _ (by decide), getFlag_setFlag_other _ _ _ (by decide)]
      exact hstatus.sumBit
    · exact (getFlag_setFlag_other _ _ _ (by decide)).trans hnotcompared
  | rejected hlen hi hpass =>
    refine ⟨hstatus.moved rfl rfl (fun _ _ => rfl) rfl fun _ => ⟨rfl, rfl⟩, hs.counts.of_eq rfl rfl rfl rfl rfl,
      hmux.of_eq nofun rfl rfl, ?_, hrecognized, hshort, hnorecord, hnotcompared⟩
    exact (scanI_toNat (by omega)).trans_le (by omega)

/-! ### FOUND_FRAME and HEADER_DECODED -/

/-- T does not wrap: it is at most 4 + 5 + 255 (42_integrity.md R150; 00_scope.md R14). -/
theorem declaredEnd_toNat (hoffset : s.frameStart ≤ 4) : (BitVec.ofNat 16 s.declaredEnd).toNat = s.declaredEnd := by
  have hdlen : s.regs.dlen.toNat < 256 := s.regs.dlen.isLt
  rw [BitVec.toNat_ofNat, Nat.mod_eq_of_lt]
  simp only [State.declaredEnd, Config.trailerBase]
  omega

theorem FoundCase.sound {p : FoundPos} (h : FoundCase s p q g es) (hpos : s.pos = .foundFrame p) (hs : Sound s) :
    SoundAfter s q g := by
  have hstatus : StatusSound (.foundFrame p) s.regs := hpos ▸ hs.status
  have hmux : MuxSound (.foundFrame p) s.regs := hpos ▸ hs.mux
  cases h with
  | complete hend =>
    obtain ⟨hlocated, hcontrol, hnorecord, hnotcompared⟩ : Located s ∧ ControlKept s ∧ NoRecord s ∧ NotCompared s := by
      simpa only [Placed, hpos] using hs.placed
    have hrecognized : getFlag (setFlag s.regs.status .complete) .recognized = getFlag s.regs.status .recognized :=
      getFlag_setFlag_other _ _ _ (by decide)
    have hkept : FrameKept s ((s.setRegs { s.regs with
        toff := BitVec.ofNat 16 s.declaredEnd, status := setFlag s.regs.status .complete }).goto (.foundFrame .leave)) :=
      ⟨rfl, rfl, rfl, rfl, hrecognized, rfl, rfl⟩
    refine ⟨hstatus.flagged (x := .complete) rfl rfl (by decide) rfl fun _ => ⟨rfl, rfl⟩,
      hs.counts.of_eq rfl rfl rfl rfl rfl, hmux.of_eq nofun rfl rfl, hs.scan, hkept.located hlocated,
      hkept.controlKept hcontrol, hnorecord, ?_, declaredEnd_toNat hlocated.offset⟩
    exact (getFlag_setFlag_other _ _ _ (by decide)).trans hnotcompared
  | incomplete hend =>
    obtain ⟨hlocated, hcontrol, hnorecord, hnotcompared⟩ : Located s ∧ ControlKept s ∧ NoRecord s ∧ NotCompared s := by
      simpa only [Placed, hpos] using hs.placed
    have hkept : FrameKept s ((s.setRegs { s.regs with toff := BitVec.ofNat 16 s.declaredEnd }).goto
        (.foundFrame .leave)) := ⟨rfl, rfl, rfl, rfl, rfl, rfl, rfl⟩
    exact ⟨hstatus.moved rfl rfl (fun _ _ => rfl) rfl fun _ => ⟨rfl, rfl⟩, hs.counts.of_eq rfl rfl rfl rfl rfl,
      hmux.of_eq nofun rfl rfl, hs.scan, hkept.located hlocated, hkept.controlKept hcontrol, hnorecord, hnotcompared,
      declaredEnd_toNat hlocated.offset⟩
  | leave =>
    obtain ⟨hlocated, hrest⟩ : Located s ∧ ControlKept s ∧ NoRecord s ∧ NotCompared s ∧ TrailerSet s := by
      simpa only [Placed, hpos] using hs.placed
    have hkept : FrameKept s ((s.setRegs s.regs).goto (.header (.field 0))) := ⟨rfl, rfl, rfl, rfl, rfl, rfl, rfl⟩
    exact ⟨hstatus.moved rfl rfl (fun _ _ => rfl) rfl fun _ => ⟨rfl, rfl⟩, hs.counts, hmux.of_eq nofun rfl rfl, hs.scan,
      hkept.located hlocated, hrest⟩

/-- What HEADER_DECODED relies on is kept by registers that leave the frame, the records and the compare alone. -/
theorem headerPlaced_kept (hplaced : Located s ∧ ControlKept s ∧ NoRecord s ∧ NotCompared s ∧ TrailerSet s) {k : Regs}
    (r : Pos) (hregs : k = { s.regs with sub := k.sub, kind := k.kind, status := k.status })
    (hrecognized : getFlag k.status .recognized = getFlag s.regs.status .recognized)
    (hchecked : getFlag k.status .csumChecked = getFlag s.regs.status .csumChecked) :
    Located ((s.setRegs k).goto r) ∧ ControlKept ((s.setRegs k).goto r) ∧ NoRecord ((s.setRegs k).goto r) ∧
      NotCompared ((s.setRegs k).goto r) ∧ TrailerSet ((s.setRegs k).goto r) := by
  obtain ⟨hlocated, hcontrol, hnorecord, hnotcompared, htrailer⟩ := hplaced
  have hkept : FrameKept s ((s.setRegs k).goto r) := by
    refine ⟨?_, ?_, ?_, ?_, hrecognized, rfl, rfl⟩ <;> simp only [State.goto_regs, State.setRegs_regs] <;> rw [hregs]
  have htoff : k.toff = s.regs.toff := by rw [hregs]
  have hidx : k.idx = s.regs.idx := by rw [hregs]
  have hrec : k.recDone = s.regs.recDone := by rw [hregs]
  exact ⟨hkept.located hlocated, hkept.controlKept hcontrol, ⟨hidx.trans hnorecord.1, hrec.trans hnorecord.2⟩,
    hchecked.trans hnotcompared, hkept.trailerSet htoff htrailer⟩

theorem dispatch_kind_code_le (b : Byte) : (dispatch b).kind.code.toNat ≤ 9 := by
  cases (dispatch b).kind <;> decide

theorem HeaderCase.sound {p : HeaderPos} (h : HeaderCase s p q g es) (hpos : s.pos = .header p) (hs : Sound s) :
    SoundAfter s q g := by
  have hstatus : StatusSound (.header p) s.regs := hpos ▸ hs.status
  have hmux : MuxSound (.header p) s.regs := hpos ▸ hs.mux
  have hplaced : Located s ∧ ControlKept s ∧ NoRecord s ∧ NotCompared s ∧ TrailerSet s := by
    simpa only [Placed, hpos] using hs.placed
  have hsame : ∀ r : Pos, r.busy = true → StatusSound r s.regs := fun r hr =>
    hstatus.moved rfl hr (fun _ _ => rfl) rfl fun _ => ⟨rfl, rfl⟩
  cases h with
  | field | fieldsEnd =>
    exact ⟨hsame _ rfl, hs.counts, hmux.of_eq nofun rfl rfl, hs.scan, headerPlaced_kept hplaced _ rfl rfl rfl⟩
  | sub =>
    exact ⟨hstatus.flagged (x := .subValid) rfl rfl (by decide) rfl fun _ => ⟨rfl, rfl⟩,
      hs.counts.of_eq rfl rfl rfl rfl rfl, ⟨hmux.kind, fun hne => absurd rfl hne⟩, hs.scan,
      headerPlaced_kept hplaced _ rfl (getFlag_setFlag_other _ _ _ (by decide))
        (getFlag_setFlag_other _ _ _ (by decide))⟩
  | subAbsent =>
    exact ⟨hstatus.flagged (x := .trunc) rfl rfl (by decide) rfl fun _ => ⟨rfl, rfl⟩,
      hs.counts.of_eq rfl rfl rfl rfl rfl, hmux.of_eq nofun rfl rfl, hs.scan,
      headerPlaced_kept hplaced _ rfl (getFlag_setFlag_other _ _ _ (by decide))
        (getFlag_setFlag_other _ _ _ (by decide))⟩
  | dispatched =>
    exact ⟨hstatus.moved rfl rfl (fun _ _ => rfl) rfl fun _ => ⟨rfl, rfl⟩, hs.counts.of_eq rfl rfl rfl rfl rfl,
      ⟨dispatch_kind_code_le _, fun _ => rfl⟩, hs.scan, headerPlaced_kept hplaced _ rfl rfl rfl⟩
  | unknown =>
    exact ⟨hstatus.flagged (x := .unknownSub) rfl rfl (by decide) rfl fun _ => ⟨rfl, rfl⟩,
      hs.counts.of_eq rfl rfl rfl rfl rfl, ⟨dispatch_kind_code_le _, fun _ => rfl⟩, hs.scan,
      headerPlaced_kept hplaced _ rfl (getFlag_setFlag_other _ _ _ (by decide))
        (getFlag_setFlag_other _ _ _ (by decide))⟩
  | leave =>
    obtain ⟨hlocated, hcontrol, hnorecord, hnotcompared, htrailer⟩ :=
      headerPlaced_kept hplaced (.payload .listHeader) (k := s.regs) rfl rfl rfl
    exact ⟨hsame _ rfl, hs.counts, hmux.of_eq nofun rfl rfl, hs.scan, hlocated, hcontrol, htrailer, hnotcompared,
      hnorecord⟩

/-! ### PAYLOAD_DECODED -/

/-- In PAYLOAD_DECODED the record shape is the one of the instruction that SUB decodes to. -/
theorem State.shape_eq {i : Instr} (hsub : decodeSub s.regs.sub = .ok i) :
    s.shape = shapeOf s.params (dispatch i.code).kind := by
  simp only [State.shape, hsub, dispatch_kind]

theorem BodyCase.counts {i : Instr} {p : BodyPos} (h : BodyCase (dispatch i.code) s p q g es)
    (hsub : decodeSub s.regs.sub = .ok i) (hs : CountSound s.regs) (hplaced : BodyPlaced s p) : CountSound g := by
  have hselected : p = .select → CountSound s.regs.selected := by
    rintro rfl
    obtain ⟨⟨_, hrec⟩, hfits⟩ : NoRecord s ∧ s.payloadStart + 6 ≤ s.regs.len.toNat := hplaced
    exact ⟨hrec, Nat.zero_le _, (Regs.selected_cur_toNat _).trans_le hfits⟩
  cases h with
  | count =>
    obtain ⟨hidx, hrec⟩ : NoRecord s := hplaced
    exact ⟨hrec.trans hidx.symm, (congrArg BitVec.toNat hidx).trans_le (Nat.zero_le _), hs.cursor⟩
  | advance sh n hshape =>
    obtain ⟨hleft, hfits⟩ : s.regs.idx.toNat < s.regs.count.toNat ∧ RecordFits s n := hplaced
    have hcur := hfits sh ((State.shape_eq hsub).trans hshape)
    have hcount : s.regs.count.toNat < 65536 := s.regs.count.isLt
    refine ⟨congrArg (· + 1) hs.counted, ?_, ?_⟩
    · have hone : (1 : Word).toNat = 1 := rfl
      change (s.regs.idx + 1).toNat ≤ s.regs.count.toNat
      rw [BitVec.toNat_add, hone]
      omega
    · exact (Nat.mod_le _ _).trans ((Nat.add_assoc _ _ _).symm.trans_le hcur)
  | selectNothing | selectRecords | filter => exact hselected rfl
  | errorCode | selectAbsent => exact (hselected rfl).of_eq rfl rfl rfl rfl rfl
  | startId | startIdAbsent | countAbsent | recordAbsent | rawDataAbsent => exact hs.of_eq rfl rfl rfl rfl rfl
  | noRecords | recordsEnd | recordFits | lead | leadEnd | rawData | view | leave => exact hs

/-- What the position a body's unit leads to relies on. -/
theorem BodyCase.bodyPlaced {i : Instr} {p r : BodyPos} (h : BodyCase (dispatch i.code) s p (.payload r) g es)
    (hsub : decodeSub s.regs.sub = .ok i) (hplaced : BodyPlaced s p) :
    BodyPlaced ((s.setRegs g).goto (.payload r)) r := by
  cases h with
  | startId => exact hplaced
  | count hlen => exact ⟨hplaced, hlen⟩
  | recordFits sh hshape hleft hlen =>
    refine ⟨hleft, fun sh' hshape' => ?_⟩
    have heq : some sh' = some sh := hshape'.symm.trans ((State.shape_eq hsub).trans hshape)
    cases heq
    exact hlen
  | lead | leadEnd => exact hplaced
  | rawData sh hshape hlen =>
    refine ⟨hplaced.1, fun sh' hshape' => ?_⟩
    have heq : some sh' = some sh := hshape'.symm.trans ((State.shape_eq hsub).trans hshape)
    cases heq
    exact hlen
  | view => exact hplaced
  | errorCode | selectNothing | selectRecords | filter | selectAbsent | startIdAbsent | countAbsent | recordAbsent
  | rawDataAbsent | noRecords | recordsEnd | advance => trivial

theorem BodyCase.sound {i : Instr} {p : BodyPos} (h : BodyCase (dispatch i.code) s p q g es) (hpos : s.pos = .payload p)
    (hsub : decodeSub s.regs.sub = .ok i) (hs : Sound s) : SoundAfter s q g := by
  have hstatus : StatusSound (.payload p) s.regs := hpos ▸ hs.status
  have hmux : MuxSound (.payload p) s.regs := hpos ▸ hs.mux
  obtain ⟨hlocated, hcontrol, htrailer, hnotcompared, hplaced⟩ : Located s ∧ ControlKept s ∧ TrailerSet s ∧
      NotCompared s ∧ BodyPlaced s p := by simpa only [Placed, hpos] using hs.placed
  have hkeeps := h.keeps
  have hkept := hkeeps.frameKept q
  have hafter : q.busy = true → Placed ((s.setRegs g).goto q) → SoundAfter s q g := fun hbusy hplacedAfter =>
    ⟨hkeeps.statusSound hstatus rfl hbusy, h.counts hsub hs.counts hplaced, hmux.of_eq nofun hkeeps.kind hkeeps.sub,
      by rw [hkeeps.scanI]; exact hs.scan, hplacedAfter⟩
  cases q with
  | payload r =>
    exact hafter rfl ⟨hkept.located hlocated, hkept.controlKept hcontrol, hkept.trailerSet hkeeps.toff htrailer,
      hkeeps.notCompared _ hnotcompared, h.bodyPlaced hsub hplaced⟩
  | trailer r =>
    cases h with
    | leave => exact hafter rfl ⟨hkept.located hlocated, hkept.controlKept hcontrol, htrailer, hnotcompared⟩
  | idle | scanning | foundFrame | header | done => cases h

/-! ### TRAILER_CHECKED -/

/-- The compare writes CSUM_CALC and sets CSUM_OK exactly where it is CSUM_DECL (R40, R154, R155). -/
theorem statusSound_compared {c : Byte} {k : Regs} (h : StatusSound (.trailer .compare) s.regs)
    (hnot : NotCompared s) (hcalc : k.csumCalc = c) (hdecl : k.csumDecl = s.regs.csumDecl)
    (hstatus : k.status = setFlagIf (c == s.regs.csumDecl) (setFlag s.regs.status .csumChecked) .csumOk) :
    StatusSound (.trailer .endMark) k where
  reserved := by rw [hstatus, reserved_setFlagIf, reserved_setFlag, h.reserved]
  busyBit := by
    rw [hstatus, getFlag_setFlagIf, getFlag_setFlag, h.busyBit]
    simp [Pos.busy]
  doneBit := by
    rw [hstatus, getFlag_setFlagIf, getFlag_setFlag, h.doneBit]
    simp
  shortBit := by simpa [hstatus, getFlag_setFlagIf, getFlag_setFlag] using h.shortBit
  sumBit := by
    have hchecked : getFlag s.regs.status .csumChecked = false := hnot
    have hok : getFlag s.regs.status .csumOk = false := by rw [h.sumBit, hchecked, Bool.false_and]
    simp [hstatus, getFlag_setFlagIf, getFlag_setFlag, hok, hcalc, hdecl]

theorem TrailerCase.sound {p : TrailerPos} (h : TrailerCase s p q g es) (hpos : s.pos = .trailer p) (hs : Sound s) :
    SoundAfter s q g := by
  have hstatus : StatusSound (.trailer p) s.regs := hpos ▸ hs.status
  have hmux : MuxSound (.trailer p) s.regs := hpos ▸ hs.mux
  obtain ⟨hlocated, hcontrol, htrailer, hplaced⟩ : Located s ∧ ControlKept s ∧ TrailerSet s ∧ TrailerPlaced s p := by
    simpa only [Placed, hpos] using hs.placed
  have hsame : ∀ r : Pos, r.busy = true → StatusSound r s.regs := fun r hr =>
    hstatus.moved rfl hr (fun _ _ => rfl) rfl fun _ => ⟨rfl, rfl⟩
  have hrecognized : ∀ f, f ≠ .recognized →
      getFlag (setFlag s.regs.status f) .recognized = getFlag s.regs.status .recognized :=
    fun f hf => getFlag_setFlag_other _ _ _ hf
  cases h with
  | declared hlen =>
    have hnot : getFlag s.regs.status .csumChecked = false := hplaced
    have hkept : FrameKept s ((s.setRegs { s.regs with csumDecl := s.byteAt s.trailerOffset }).goto
        (.trailer .compare)) := ⟨rfl, rfl, rfl, rfl, rfl, rfl, rfl⟩
    exact ⟨hstatus.moved rfl rfl (fun _ _ => rfl) rfl (fun hset => absurd (hset.symm.trans hnot) (by decide)),
      hs.counts.of_eq rfl rfl rfl rfl rfl, hmux.of_eq nofun rfl rfl, hs.scan, hkept.located hlocated,
      hkept.controlKept hcontrol, htrailer, hplaced, hlen⟩
  | matched hsum =>
    have hkept : FrameKept s ((s.setRegs { s.regs with
        csumAcc := s.frameSum, csumCalc := s.frameSum
        status := setFlag (setFlag s.regs.status .csumChecked) .csumOk }).goto (.trailer .endMark)) :=
      ⟨rfl, rfl, rfl, rfl, by simp [State.flag, getFlag_setFlag], rfl, rfl⟩
    refine ⟨statusSound_compared hstatus hplaced.1 rfl rfl ?_, hs.counts.of_eq rfl rfl rfl rfl rfl,
      hmux.of_eq nofun rfl rfl, hs.scan, hkept.located hlocated, hkept.controlKept hcontrol, htrailer, trivial⟩
    rw [hsum, beq_self_eq_true]
    rfl
  | mismatched hsum =>
    have hkept : FrameKept s ((s.setRegs { s.regs with
        csumAcc := s.frameSum, csumCalc := s.frameSum, status := setFlag s.regs.status .csumChecked }).goto
        (.trailer .endMark)) := ⟨rfl, rfl, rfl, rfl, by simp [State.flag, getFlag_setFlag], rfl, rfl⟩
    refine ⟨statusSound_compared hstatus hplaced.1 rfl rfl ?_, hs.counts.of_eq rfl rfl rfl rfl rfl,
      hmux.of_eq nofun rfl rfl, hs.scan, hkept.located hlocated, hkept.controlKept hcontrol, htrailer, trivial⟩
    rw [beq_eq_false_iff_ne.2 hsum]
    rfl
  | declaredAbsent | endMark | endMarkAbsent =>
    have hkept : ∀ r, FrameKept s ((s.setRegs s.regs).goto r) := fun r => ⟨rfl, rfl, rfl, rfl, rfl, rfl, rfl⟩
    exact ⟨hsame _ rfl, hs.counts, hmux.of_eq nofun rfl rfl, hs.scan, (hkept _).located hlocated, hcontrol, htrailer,
      trivial⟩
  | leave =>
    have hkept : FrameKept s ((s.setRegs { s.regs with status := statusAtDone s.regs.status }).goto .done) :=
      ⟨rfl, rfl, rfl, rfl, by simp [State.flag, getFlag_statusAtDone], rfl, rfl⟩
    exact ⟨hstatus.enterDone rfl rfl rfl, hs.counts.of_eq rfl rfl rfl rfl rfl, hmux.of_eq nofun rfl rfl, hs.scan,
      fun _ => ⟨hkept.located hlocated, htrailer⟩⟩

/-! ### A unit of any phase -/

theorem UnitCase.sound (h : UnitCase s q g es) (hs : Sound s) : SoundAfter s q g := by
  cases h with
  | scan hpos hcase => exact hcase.sound hpos hs
  | found hpos hcase => exact hcase.sound hpos hs
  | header hpos hcase => exact hcase.sound hpos hs
  | body i hpos hsub hcase => exact hcase.sound hpos hsub hs
  | trailer hpos hcase => exact hcase.sound hpos hs
  | @noBody p e hpos hsub =>
    have hstatus : StatusSound (.payload p) s.regs := hpos ▸ hs.status
    have hmux : MuxSound (.payload p) s.regs := hpos ▸ hs.mux
    obtain ⟨hlocated, hcontrol, htrailer, hnotcompared, _⟩ : Located s ∧ ControlKept s ∧ TrailerSet s ∧
        NotCompared s ∧ BodyPlaced s p := by simpa only [Placed, hpos] using hs.placed
    have hkept : FrameKept s ((s.setRegs s.regs).goto (.trailer .declared)) := ⟨rfl, rfl, rfl, rfl, rfl, rfl, rfl⟩
    exact ⟨hstatus.moved rfl rfl (fun _ _ => rfl) rfl fun _ => ⟨rfl, rfl⟩, hs.counts, hmux.of_eq nofun rfl rfl, hs.scan,
      hkept.located hlocated, hcontrol, htrailer, hnotcompared⟩

/-- LEN is sampled at START and left alone by every unit (R20). -/
theorem UnitCase.len (h : UnitCase s q g es) : g.len = s.regs.len := by
  cases h with
  | scan _ hcase => cases hcase <;> rfl
  | found _ hcase => cases hcase <;> rfl
  | header _ hcase => cases hcase <;> rfl
  | body _ _ _ hcase => exact hcase.keeps.len
  | trailer _ hcase => cases hcase <;> rfl
  | noBody => rfl

/-- A unit that ends the transaction emits nothing (R264, R272). -/
theorem UnitCase.silent_of_done (h : UnitCase s q g es) (hq : q.busy = false) : es = [] := by
  cases h with
  | scan | noBody => rfl
  | found _ hcase => cases hcase <;> cases hq
  | header _ hcase => cases hcase <;> cases hq
  | body _ _ _ hcase => cases hcase <;> cases hq
  | trailer _ hcase =>
    cases hcase with
    | leave => rfl
    | declared | declaredAbsent | matched | mismatched | endMark | endMarkAbsent => cases hq

/-- A unit of work on an empty port keeps the invariant. -/
theorem Sound.unit {t : State} (hs : Sound s) (hfree : s.free) (hcase : UnitCase s q g es) (hmoved : Moved s t q g es) :
    Sound t := by
  obtain ⟨hpos, hregs, hwaiting, _, haround⟩ := hmoved
  have hafter := hcase.sound hs
  have hkept : FrameKept ((s.setRegs g).goto q) t :=
    ⟨by rw [hregs]; rfl, by rw [hregs]; rfl, by rw [hregs]; rfl, by rw [hregs]; rfl, by rw [State.flag, hregs]; rfl,
      haround.buf, haround.unstable⟩
  rw [s.waiting_of_free hfree, List.nil_append] at hwaiting
  refine ⟨by rw [hpos, hregs]; exact hafter.status, by rw [hregs]; exact hafter.counts,
    by rw [hpos, hregs]; exact hafter.mux, by rw [hregs]; exact hafter.scan, fun hidle => ?_, fun w hw => ?_,
    placed_of (s := (s.setRegs g).goto q) hpos hregs haround.params (fun _ _ => ?_) hafter.placed⟩
  · rw [hpos] at hidle
    exact State.free_of_waiting t (hwaiting.trans (hcase.silent_of_done hidle))
  · rw [hregs, hcase.len]
    rw [hwaiting] at hw
    exact (hcase.encoded w hw).insideBuffer
  · exact hkept.controlKept

end Sys2Proof.Machine
end

section
/-!
SUPPORT. The invariant along a step: it holds after reset and after START, the host's side keeps it, and so does every
case of a cycle. From a state that meets it every unit of work answers, so no step stops.
-/

namespace Sys2Proof.Machine

/-! ### Reset and START -/

/-- Registers without counts, with the mux's output for SUB = 0. -/
theorem countSound_zero {g : Regs} (hrec : g.recDone = 0) (hidx : g.idx = 0) (hcur : g.cur = 0) : CountSound g :=
  ⟨by rw [hrec, hidx], by rw [hidx]; exact Nat.zero_le _, by rw [hcur]; exact Nat.zero_le _⟩

theorem muxSound_zero {p : Pos} {g : Regs} (hkind : g.kind = 0) (hsub : g.sub = 0) : MuxSound p g :=
  ⟨by rw [hkind]; decide, fun _ => by rw [hkind, hsub]; decide⟩

/-- IDLE with every register at its reset value and no event waiting (R43). -/
theorem sound_idle {s : State} (hpos : s.pos = .idle) (hregs : s.regs = Regs.reset) (hwaiting : s.waiting = []) :
    Sound s where
  status := by rw [hpos, hregs]; exact ⟨by decide, by decide, by decide, by decide, by decide⟩
  counts := by rw [hregs]; exact countSound_zero rfl rfl rfl
  mux := by rw [hregs]; exact muxSound_zero rfl rfl
  scan := by rw [hregs]; decide
  quiet _ := s.free_of_waiting hwaiting
  events := by rw [hwaiting]; exact List.forall_mem_nil _
  placed := by rw [Placed, hpos]; trivial

/-- SCANNING as an accepted START enters it: every register but LEN and STATUS at its reset value (R44, R262). -/
theorem sound_scanning {s : State} (n : Word) (hpos : s.pos = .scanning)
    (hregs : s.regs = { Regs.reset with len := n, status := statusAtStart }) (hwaiting : s.waiting = []) : Sound s where
  status := by
    rw [hpos, hregs]
    exact ⟨(by decide : statusAtStart &&& 0xE000 = 0), getFlag_statusAtStart .busy, getFlag_statusAtStart .done,
      fun _ => getFlag_statusAtStart .recognized, by rw [getFlag_statusAtStart, getFlag_statusAtStart]; rfl⟩
  counts := by rw [hregs]; exact countSound_zero rfl rfl rfl
  mux := by rw [hregs]; exact muxSound_zero rfl rfl
  scan := by rw [hregs]; exact Nat.zero_le _
  quiet _ := s.free_of_waiting hwaiting
  events := by rw [hwaiting]; exact List.forall_mem_nil _
  placed := by
    have hflag : ∀ f, s.flag f = decide (f = .busy) := fun f => by rw [State.flag, hregs]; exact getFlag_statusAtStart f
    rw [Placed, hpos]
    exact ⟨hflag .recognized, hflag .short, ⟨by rw [hregs]; rfl, by rw [hregs]; rfl⟩, hflag .csumChecked⟩

/-! ### What leaves position and registers alone -/

/-- The invariant looks at the position, the registers, the configuration, the waiting events and, for CTRL, the
buffer. -/
theorem Sound.of_same {s t : State} (hs : Sound s) (hpos : t.pos = s.pos) (hregs : t.regs = s.regs)
    (hparams : t.params = s.params) (hwaiting : ∀ w ∈ t.waiting, w ∈ s.waiting)
    (hcontrol : s.pos.busy = true → Located s → ControlKept s → ControlKept t) : Sound t where
  status := by rw [hpos, hregs]; exact hs.status
  counts := by rw [hregs]; exact hs.counts
  mux := by rw [hpos, hregs]; exact hs.mux
  scan := by rw [hregs]; exact hs.scan
  quiet hidle := by
    rw [hpos] at hidle
    rw [s.waiting_of_free (hs.quiet hidle)] at hwaiting
    exact t.free_of_waiting (List.eq_nil_iff_forall_not_mem.2 fun w hw => List.not_mem_nil (hwaiting w hw))
  events w hw := by rw [hregs]; exact hs.events w (hwaiting w hw)
  placed := placed_of hpos hregs hparams hcontrol hs.placed

/-- Where the buffer too is as it was, CTRL's clause is as it was. -/
theorem controlKept_of_same {s t : State} (hregs : t.regs = s.regs) (hbuf : t.buf = s.buf)
    (hunstable : t.unstable = s.unstable) (h : ControlKept s) : ControlKept t := by
  intro hstable b hread
  rw [hunstable] at hstable
  rw [hbuf, State.frameStart, hregs] at hread
  rw [hregs]
  exact h hstable b hread

theorem Sound.elapse {s : State} (hs : Sound s) : Sound s.elapse :=
  hs.of_same s.elapse_pos s.elapse_regs s.elapse_params (fun w hw => by rwa [State.waiting_elapse] at hw)
    fun _ _ => controlKept_of_same s.elapse_regs s.elapse_buf s.elapse_unstable

theorem Sound.present {s : State} (hs : Sound s) : Sound s.present :=
  hs.of_same s.present_pos s.present_regs s.present_params (fun w hw => by rwa [State.waiting_present] at hw)
    fun _ _ => controlKept_of_same s.present_regs s.present_buf s.present_unstable

theorem Sound.accept {s : State} (hs : Sound s) : Sound s.accept :=
  hs.of_same rfl rfl rfl (fun w hw => List.mem_append_right _ (by simpa [State.waiting] using hw)) fun _ _ h => h

/-- A store that the host makes below LEN while a transaction runs either changes nothing or marks the transaction's
buffer (R334), so that CTRL's clause goes on. -/
theorem ControlKept.hostStore {s : State} (hbusy : s.pos.busy = true) (hlocated : Located s) (h : ControlKept s) :
    ControlKept s.hostStore := by
  cases hstore : s.pins.store with
  | none => rwa [State.hostStore_of_none s hstore]
  | some st =>
    have hlen : s.frameStart + 4 < s.regs.len.toNat := by have := hlocated.present; omega
    intro hstable b hread
    simp only [State.hostStore, hstore, Bool.or_eq_false_iff] at hstable
    obtain ⟨hwas, hsame⟩ := hstable
    have hstart : s.hostStore.frameStart = s.frameStart := by rw [State.frameStart, State.hostStore_regs]; rfl
    rw [hstart] at hread
    rw [State.hostStore_regs]
    simp only [State.hostStore, hstore, Memory.read_write] at hread
    split at hread
    next haddr =>
      refine h hwas b ?_
      have hbyte : Memory.read s.buf st.addr.val = some st.byte := by
        simpa [hbusy, ← haddr, hlen] using hsame
      rw [haddr, hbyte, hread]
    next => exact h hwas b hread

theorem Sound.hostStore {s : State} (hs : Sound s) : Sound s.hostStore :=
  hs.of_same s.hostStore_pos s.hostStore_regs s.hostStore_params (fun w hw => by rwa [State.waiting_hostStore] at hw)
    ControlKept.hostStore

/-! ### A step -/

theorem CycleCase.sound {s u : State} (h : CycleCase s u) (hs : Sound s) : Sound u := by
  cases h with
  | reset => exact sound_idle rfl rfl rfl
  | accept => exact hs.accept
  | stall | wait | rest => exact hs
  | present => exact hs.present
  | start _ _ hidle _ => exact sound_scanning s.pins.lenIn rfl rfl (s.waiting_of_free (hs.quiet hidle))
  | work u _ hbusy _ hfree hwork =>
    obtain ⟨q, g, es, hcase, hmoved⟩ := workUnit_moved hbusy hwork
    exact hs.unit hfree hcase hmoved

theorem step_sound {s t : State} (hs : Sound s) (h : step s = .next t) : Sound t := by
  obtain ⟨u, hcase, rfl⟩ := step_cases h
  exact (hcase.sound hs.hostStore).elapse

/-- Settles O48: the parts of the invariant are kept by `step_sound`, and the buffer's canonical form by the host's store,
which alone writes the buffer. -/
theorem invariantKept : Obligations.InvariantKept := by
  intro s t hs h
  obtain ⟨hbuf, hsound⟩ := (inv_iff s).1 hs
  refine (inv_iff t).2 ⟨?_, step_sound hsound h⟩
  obtain ⟨u, hcase, rfl⟩ := step_cases h
  rw [State.elapse_buf, hcase.buf_params.1]
  exact s.hostStore_wf hbuf

/-- Settles O47: the reset state is IDLE with reset registers (`sound_idle`) and an empty buffer. -/
theorem invariantAtReset : Obligations.InvariantAtReset :=
  ⟨(inv_iff _).2 ⟨State.reset_wf, sound_idle rfl rfl rfl⟩,
    ⟨fun _ => rfl, fun _ => rfl, fun _ => rfl, fun _ => rfl, fun _ => rfl, fun _ _ => rfl, fun _ => rfl,
      fun _ => ⟨rfl, rfl, rfl, rfl⟩⟩, fun _ => rfl⟩

/-! ### Every unit answers -/

theorem scanUnit_answers (s : State) : ∃ t, scanUnit s = .ok t := by
  unfold scanUnit
  split
  next => exact ⟨_, rfl⟩
  next hlen =>
    dsimp only
    split
    next => exact ⟨_, rfl⟩
    next =>
      split
      next hpass =>
        have hfits := State.passes_fits hpass
        rw [State.acceptCandidate, State.readByte_of_lt _ _ (by rw [State.setRegs_regs]; dsimp only; omega),
          State.readAgain_of_lt _ _ (by rw [State.setRegs_regs]; dsimp only; omega)]
        exact ⟨_, rfl⟩
      next => exact ⟨_, rfl⟩

variable {s : State}

theorem headerUnit_answers (hlocated : Located s) (p : HeaderPos) : ∃ t, headerUnit p s = .ok t := by
  cases p with
  | field k =>
    cases htag : headerTags[k]? with
    | none => exact ⟨_, by simp only [headerUnit, htag] <;> rfl⟩
    | some tag =>
      have hk : k < 6 := (List.getElem?_eq_some_iff.1 htag).1
      have hpresent := hlocated.present
      simp only [headerUnit, htag, headerFieldUnit, s.readByte_of_lt (s.frameStart + k) (by omega)]
      exact ⟨_, rfl⟩
  | sub =>
    simp only [headerUnit, subUnit]
    split
    next hfits => rw [s.readByte_of_lt _ ((s.fits_iff _ _).1 hfits)]; exact ⟨_, rfl⟩
    next => exact ⟨_, rfl⟩
  | dispatch | leave => exact ⟨_, rfl⟩

theorem selectUnit_answers (m : MuxOut) (s : State) : ∃ t, selectUnit m s = .ok t := by
  rw [selectUnit_eq]
  cases selectionOf m s.regs.count with
  | nothing | records => exact ⟨_, rfl⟩
  | errorCode => exact ⟨_, errorCodeWork_eq _⟩
  | filter => exact ⟨_, filterWork_eq _⟩

/-- Behind the guard on its leading part, and on its data, every unit of a record's decode reads inside the buffer (R207, R208). -/
theorem recordLoopUnit_answers {c : Params} {k : Kind} {sh : Shape} {p : BodyPos} (hshape : shapeOf c k = some sh)
    (hfree : s.free) (hplaced : BodyPlaced s p)
    (hfits : ∀ n, RecordFits s n → s.regs.cur.toNat + sh.size + n ≤ s.regs.len.toNat) :
    ∃ t, recordLoopUnit sh p s = .ok t := by
  obtain ⟨hlead, hlenField, htyped, _⟩ := shapeOf_fields _ _ _ hshape
  cases p with
  | listHeader | countField | select | leave | record | advance => exact ⟨_, rfl⟩
  | lead j =>
    have hprefix := hfits 0 hplaced.2
    cases hfield : sh.lead[j]? with
    | none => exact ⟨_, by simp only [recordLoopUnit, hfield] <;> rfl⟩
    | some f =>
      obtain ⟨hinside, hwidth⟩ := hlead f (List.mem_of_getElem? hfield)
      simp only [recordLoopUnit, hfield, leadFieldUnit_of_le j hwidth (show _ ≤ s.regs.len.toNat by omega)]
      exact ⟨_, rfl⟩
  | varPart =>
    exact ⟨_, variableUnit_of_length (variableLength_of_le hlenField (hfits 0 hplaced.2))⟩
  | view n => exact ⟨_, viewUnit_of_le htyped (hfits n hplaced.2) hfree.2⟩

theorem bodyAt_answers {i : Instr} {p : BodyPos} (hsub : decodeSub s.regs.sub = .ok i) (hfree : s.free)
    (hplaced : BodyPlaced s p) : ∃ t, bodyAt (dispatch i.code) p s = .ok t := by
  cases hloop : p.inRecordLoop with
  | true =>
    rw [bodyAt_loop_eq s hloop]
    cases hshape : shapeOf s.params (dispatch i.code).kind with
    | none => exact ⟨_, rfl⟩
    | some sh =>
      exact recordLoopUnit_answers hshape hfree hplaced fun n hn => hn sh ((State.shape_eq hsub).trans hshape)
  | false =>
    cases p with
    | record | lead | varPart | view | advance => cases hloop
    | listHeader => exact ⟨_, listHeaderUnit_eq _ s⟩
    | countField => exact ⟨_, countUnit_eq s⟩
    | select => exact selectUnit_answers _ s
    | leave => exact ⟨_, rfl⟩

theorem compareUnit_answers (htrailer : TrailerSet s) (hlen : s.trailerOffset < s.regs.len.toNat) :
    ∃ t, compareUnit s = .ok t := by
  have hlow : s.frameStart + 4 ≤ s.trailerOffset := by
    rw [TrailerSet, Config.trailerBase] at htrailer
    omega
  simp only [compareUnit, s.checksum_eq _ _ hlow hlen.le]
  exact ⟨_, rfl⟩

/-- From a state that meets the invariant, a unit on an empty port answers (R307). -/
theorem Sound.workUnit_answers (hs : Sound s) (hfree : s.free) : ∃ t, workUnit s = .next t := by
  have hplaced := hs.placed
  cases hpos : s.pos with
  | idle | done => exact ⟨s, by simp only [workUnit, hpos]⟩
  | scanning =>
    obtain ⟨t, ht⟩ := scanUnit_answers s
    exact ⟨t, by simp only [workUnit, hpos, ht, outcomeOf]⟩
  | foundFrame p => exact ⟨foundUnit p s, by simp only [workUnit, hpos]⟩
  | header p =>
    obtain ⟨hlocated, _⟩ : Located s ∧ ControlKept s ∧ NoRecord s ∧ NotCompared s ∧ TrailerSet s := by
      simpa only [Placed, hpos] using hplaced
    obtain ⟨t, ht⟩ := headerUnit_answers hlocated p
    exact ⟨t, by simp only [workUnit, hpos, ht, outcomeOf]⟩
  | payload p =>
    obtain ⟨_, _, _, _, hbody⟩ : Located s ∧ ControlKept s ∧ TrailerSet s ∧ NotCompared s ∧ BodyPlaced s p := by
      simpa only [Placed, hpos] using hplaced
    simp only [workUnit, hpos, payloadUnit_eq]
    cases hsub : decodeSub s.regs.sub with
    | error e => exact ⟨_, rfl⟩
    | ok i =>
      obtain ⟨t, ht⟩ := bodyAt_answers hsub hfree hbody
      exact ⟨t, by simp only [exec_at i s p hpos, ht, outcomeOf]⟩
  | trailer p =>
    obtain ⟨_, _, htrailer, hat⟩ : Located s ∧ ControlKept s ∧ TrailerSet s ∧ TrailerPlaced s p := by
      simpa only [Placed, hpos] using hplaced
    have hunit : ∃ t, trailerUnit p s = .ok t := by
      cases p with
      | declared => exact declaredUnit_answers s
      | compare => exact compareUnit_answers htrailer hat.2
      | endMark => exact endMarkUnit_answers s
      | leave => exact ⟨_, rfl⟩
    obtain ⟨t, ht⟩ := hunit
    exact ⟨t, workUnit_of_trailerUnit hpos ht⟩

/-- Only a unit of work can stop a cycle. -/
theorem cycle_answers (s : State) (h : s.free → ∃ t, workUnit s = .next t) : ∃ u, cycle s = .next u := by
  unfold cycle
  split
  next =>
    unfold busyCycle
    split
    next => exact ⟨_, rfl⟩
    next =>
      split
      next => exact ⟨_, rfl⟩
      next hvalid =>
        split
        next => exact ⟨_, rfl⟩
        next =>
          split
          next hburst => exact h ⟨by simpa using hvalid, by simpa using hburst⟩
          next => exact ⟨_, rfl⟩
  next => split_ifs <;> exact ⟨_, rfl⟩

/-- Settles O49: only a unit of work could stop a step (`cycle_answers`), and under the invariant each answers
(`Sound.workUnit_answers`). -/
theorem invariantNeverStops : Obligations.InvariantNeverStops := by
  intro s hs
  obtain ⟨u, hu⟩ := cycle_answers s.hostStore ((inv_iff s).1 hs).2.hostStore.workUnit_answers
  exact ⟨u.elapse, (step_next s _).2 ⟨u, hu, rfl⟩⟩

/-! ### Registers that nothing has written read 0 -/

/-- A register is written together with its VALID bit (R45): the frame's with RECOGNIZED, KIND from SUB, and CSUM_DECL one
unit before CSUM_CHECKED is set (R154). -/
structure WritesValid (s : State) (q : Pos) (g : Regs) : Prop where
  sub : g.sub = s.regs.sub ∨ getFlag g.status .subValid = true
  startId : g.startId = s.regs.startId ∨ getFlag g.status .startIdValid = true
  count : g.count = s.regs.count ∨ getFlag g.status .countValid = true
  errcode : g.errcode = s.regs.errcode ∨ getFlag g.status .errcodeValid = true
  csumCalc : g.csumCalc = s.regs.csumCalc ∨ getFlag g.status .csumChecked = true
  csumDecl : g.csumDecl = s.regs.csumDecl ∧ s.pos ≠ .trailer .compare ∨ q = .trailer .compare ∨
    getFlag g.status .csumChecked = true
  kind : g.kind = s.regs.kind ∨ g.kind = (dispatch s.regs.sub).kind.code ∧ g.sub = s.regs.sub
  frame : (g.startOff = s.regs.startOff ∧ g.dlen = s.regs.dlen ∧ g.ctrl = s.regs.ctrl ∧ g.toff = s.regs.toff) ∨
    getFlag g.status .recognized = true

variable {q : Pos} {g : Regs} {es : List Wires}

theorem BodyCase.writesValid {m : MuxOut} {p : BodyPos} (h : BodyCase m s p q g es) (hpos : s.pos = .payload p) :
    WritesValid s q g := by
  have hk := h.keeps
  have hlist : (g.startId = s.regs.startId ∨ getFlag g.status .startIdValid = true) ∧
      (g.count = s.regs.count ∨ getFlag g.status .countValid = true) ∧
      (g.errcode = s.regs.errcode ∨ getFlag g.status .errcodeValid = true) := by
    cases h with
    | startId => exact ⟨.inr (getFlag_setFlag_same _ _), .inl rfl, .inl rfl⟩
    | count => exact ⟨.inl rfl, .inr (getFlag_setFlag_same _ _), .inl rfl⟩
    | errorCode => exact ⟨.inl rfl, .inl rfl, .inr (getFlag_setFlag_same _ _)⟩
    | startIdAbsent | countAbsent | recordAbsent | rawDataAbsent | selectAbsent | selectNothing | selectRecords | filter
    | advance | noRecords | recordsEnd | recordFits | lead | leadEnd | rawData | view | leave =>
      exact ⟨.inl rfl, .inl rfl, .inl rfl⟩
  obtain ⟨hstartId, hcount, herrcode⟩ := hlist
  exact ⟨.inl hk.sub, hstartId, hcount, herrcode, .inl hk.csumCalc, .inl ⟨hk.csumDecl, by rw [hpos]; nofun⟩,
    .inl hk.kind, .inl ⟨hk.startOff, hk.dlen, hk.ctrl, hk.toff⟩⟩

theorem UnitCase.writesValid (h : UnitCase s q g es) (hs : Sound s) : WritesValid s q g := by
  cases h with
  | body i hpos _ hcase => exact hcase.writesValid hpos
  | noBody e hpos =>
    exact ⟨.inl rfl, .inl rfl, .inl rfl, .inl rfl, .inl rfl, .inl ⟨rfl, by rw [hpos]; nofun⟩, .inl rfl,
      .inl ⟨rfl, rfl, rfl, rfl⟩⟩
  | scan hpos hcase =>
    have hdecl : s.pos ≠ .trailer .compare := by rw [hpos]; nofun
    cases hcase with
    | accepted => exact ⟨.inl rfl, .inl rfl, .inl rfl, .inl rfl, .inl rfl, .inl ⟨rfl, hdecl⟩, .inl rfl,
        .inr (getFlag_setFlag_same _ _)⟩
    | short | exhausted | rejected => exact ⟨.inl rfl, .inl rfl, .inl rfl, .inl rfl, .inl rfl, .inl ⟨rfl, hdecl⟩,
        .inl rfl, .inl ⟨rfl, rfl, rfl, rfl⟩⟩
  | @found p _ _ _ hpos hcase =>
    have hdecl : s.pos ≠ .trailer .compare := by rw [hpos]; nofun
    have hrecognized : getFlag s.regs.status .recognized = true := by
      have hplaced := hs.placed
      rw [Placed, hpos] at hplaced
      cases p with
      | verify | leave => exact hplaced.1.recognized
    cases hcase with
    | complete => exact ⟨.inl rfl, .inl rfl, .inl rfl, .inl rfl, .inl rfl, .inl ⟨rfl, hdecl⟩, .inl rfl,
        .inr ((getFlag_setFlag_other _ _ _ (by decide)).trans hrecognized)⟩
    | incomplete | leave => exact ⟨.inl rfl, .inl rfl, .inl rfl, .inl rfl, .inl rfl, .inl ⟨rfl, hdecl⟩, .inl rfl,
        .inr hrecognized⟩
  | header hpos hcase =>
    have hdecl : s.pos ≠ .trailer .compare := by rw [hpos]; nofun
    cases hcase with
    | sub => exact ⟨.inr (getFlag_setFlag_same _ _), .inl rfl, .inl rfl, .inl rfl, .inl rfl, .inl ⟨rfl, hdecl⟩,
        .inl rfl, .inl ⟨rfl, rfl, rfl, rfl⟩⟩
    | dispatched | unknown => exact ⟨.inl rfl, .inl rfl, .inl rfl, .inl rfl, .inl rfl, .inl ⟨rfl, hdecl⟩,
        .inr ⟨rfl, rfl⟩, .inl ⟨rfl, rfl, rfl, rfl⟩⟩
    | field | fieldsEnd | subAbsent | leave => exact ⟨.inl rfl, .inl rfl, .inl rfl, .inl rfl, .inl rfl,
        .inl ⟨rfl, hdecl⟩, .inl rfl, .inl ⟨rfl, rfl, rfl, rfl⟩⟩
  | trailer hpos hcase =>
    cases hcase with
    | declared => exact ⟨.inl rfl, .inl rfl, .inl rfl, .inl rfl, .inl rfl, .inr (.inl rfl), .inl rfl,
        .inl ⟨rfl, rfl, rfl, rfl⟩⟩
    | matched =>
      have hchecked : getFlag (setFlag (setFlag s.regs.status .csumChecked) .csumOk) .csumChecked = true := by
        simp [getFlag_setFlag]
      exact ⟨.inl rfl, .inl rfl, .inl rfl, .inl rfl, .inr hchecked, .inr (.inr hchecked), .inl rfl,
        .inl ⟨rfl, rfl, rfl, rfl⟩⟩
    | mismatched => exact ⟨.inl rfl, .inl rfl, .inl rfl, .inl rfl, .inr (getFlag_setFlag_same _ _),
        .inr (.inr (getFlag_setFlag_same _ _)), .inl rfl, .inl ⟨rfl, rfl, rfl, rfl⟩⟩
    | declaredAbsent | endMark | endMarkAbsent | leave =>
      exact ⟨.inl rfl, .inl rfl, .inl rfl, .inl rfl, .inl rfl, .inl ⟨rfl, by rw [hpos]; nofun⟩, .inl rfl,
        .inl ⟨rfl, rfl, rfl, rfl⟩⟩

/-- Registers written with their VALID bits, and bits that are never cleared, keep what R45 says. -/
theorem AbsentReadsZero.unit {t : State} (hs : AbsentReadsZero s) (hw : WritesValid s t.pos t.regs)
    (hkept : ∀ f, f ≠ .busy → s.flag f = true → t.flag f = true) : AbsentReadsZero t := by
  have hunset : ∀ f, f ≠ .busy → t.flag f = false → s.flag f = false := fun f hne ht =>
    Bool.eq_false_iff.2 fun hset => absurd ((hkept f hne hset).symm.trans ht) (by decide)
  have hvalid : ∀ (f : StatusBit) {P : Prop}, getFlag t.regs.status f = true → t.flag f = false → P :=
    fun f P hset ht => absurd (hset.symm.trans ht) (by decide)
  refine ⟨fun h => ?_, fun h => ?_, fun h => ?_, fun h => ?_, fun h => ?_, fun h hpos => ?_, fun h => ?_, fun h => ?_⟩
  · exact hw.sub.elim (fun heq => heq.trans (hs.sub (hunset _ (by decide) h))) (hvalid _ · h)
  · exact hw.startId.elim (fun heq => heq.trans (hs.startId (hunset _ (by decide) h))) (hvalid _ · h)
  · exact hw.count.elim (fun heq => heq.trans (hs.count (hunset _ (by decide) h))) (hvalid _ · h)
  · exact hw.errcode.elim (fun heq => heq.trans (hs.errcode (hunset _ (by decide) h))) (hvalid _ · h)
  · exact hw.csumCalc.elim (fun heq => heq.trans (hs.csumCalc (hunset _ (by decide) h))) (hvalid _ · h)
  · obtain ⟨heq, hne⟩ | hcompare | hchecked := hw.csumDecl
    · exact heq.trans (hs.csumDecl (hunset _ (by decide) h) hne)
    · exact absurd hcompare hpos
    · exact hvalid _ hchecked h
  · have hunread := hunset _ (by decide) h
    obtain heq | ⟨heq, _⟩ := hw.kind
    · exact heq.trans (hs.kind hunread)
    · rw [heq, hs.sub hunread]
      rfl
  · obtain ⟨hstart, hdlen, hctrl, htoff⟩ | hrecognized := hw.frame
    · rw [hstart, hdlen, hctrl, htoff]
      exact hs.frame (hunset _ (by decide) h)
    · exact hvalid _ hrecognized h

theorem AbsentReadsZero.of_same {t : State} (hs : AbsentReadsZero s) (hpos : t.pos = s.pos) (hregs : t.regs = s.regs) :
    AbsentReadsZero t :=
  hs.unit (by
    rw [hregs]
    by_cases hcompare : s.pos = .trailer .compare
    · exact ⟨.inl rfl, .inl rfl, .inl rfl, .inl rfl, .inl rfl, .inr (.inl (hpos.trans hcompare)), .inl rfl,
        .inl ⟨rfl, rfl, rfl, rfl⟩⟩
    · exact ⟨.inl rfl, .inl rfl, .inl rfl, .inl rfl, .inl rfl, .inl ⟨rfl, hcompare⟩, .inl rfl,
        .inl ⟨rfl, rfl, rfl, rfl⟩⟩)
    fun f _ hset => by rwa [State.flag, hregs]

theorem CycleCase.absentReadsZero {u : State} (h : CycleCase s u) (hs : Sound s) (ha : AbsentReadsZero s) :
    AbsentReadsZero u := by
  cases h with
  | reset | start => exact ⟨fun _ => rfl, fun _ => rfl, fun _ => rfl, fun _ => rfl, fun _ => rfl, fun _ _ => rfl,
      fun _ => rfl, fun _ => ⟨rfl, rfl, rfl, rfl⟩⟩
  | accept | stall | wait | rest => exact ha.of_same rfl rfl
  | present => exact ha.of_same s.present_pos s.present_regs
  | work u _ hbusy _ _ hwork =>
    obtain ⟨q, g, es, hcase, hmoved⟩ := workUnit_moved hbusy hwork
    obtain ⟨rfl, rfl, -, -, -⟩ := hmoved
    exact ha.unit (hcase.writesValid hs) fun f hne hset => (hcase.kept hset).resolve_right fun ⟨hb, _⟩ => hne hb

/-- Settles O50: a cycle keeps it (`CycleCase.absentReadsZero`); the host's store and its next inputs touch no register. -/
theorem absentRegistersReadZero : Obligations.AbsentRegistersReadZero := by
  intro s t hs ha h
  obtain ⟨u, hcase, rfl⟩ := step_cases h
  have hstored := ha.of_same s.hostStore_pos s.hostStore_regs
  exact (hcase.absentReadsZero ((inv_iff s).1 hs).2.hostStore hstored).of_same u.elapse_pos u.elapse_regs

end Sys2Proof.Machine
end

section
/-!
SUPPORT. Runs: what the host drives along them, how a transaction's work shrinks, and the end of every transaction
(45_orchestration.md R278). An accepted START looks ahead at the host's stores (R334; assumption 2).
-/

namespace Sys2Proof.Machine

/-! ### Runs and input levels -/

theorem runsTo_zero_iff (s u : State) : runsTo 0 s u ↔ s = u := by
  change Host.Outcome.next s = Host.Outcome.next u ↔ s = u
  rw [Host.Outcome.next.injEq]

/-- A run of n + 1 steps is a step and a run of n steps. -/
theorem runsTo_succ_iff (n : Nat) (s u : State) : runsTo (n + 1) s u ↔ ∃ t, step s = .next t ∧ runsTo n t u := by
  refine ⟨fun hrun => ?_, fun ⟨t, hstep, hrun⟩ => runsTo_succ hstep hrun⟩
  have hcore : Sys2Proof.core.step s = step s := rfl
  cases hstep : step s with
  | next t =>
    refine ⟨t, rfl, ?_⟩
    simpa only [runsTo, Host.Core.run, hcore, hstep] using hrun
  | fault e => simp only [runsTo, Host.Core.run, hcore, hstep, reduceCtorEq] at hrun
  | refused r => simp only [runsTo, Host.Core.run, hcore, hstep, reduceCtorEq] at hrun

/-- What holds of all levels that the host is going to drive holds of those it drives after a step. -/
theorem State.elapse_levels {P : Pins → Prop} (hwait : ∀ p, P p → P { p with wait := false }) {s : State}
    (h : ∀ p ∈ s.pins :: s.script, P p) : ∀ p ∈ s.elapse.pins :: s.elapse.script, P p := by
  cases hscript : s.script with
  | nil =>
    rw [State.elapse_pins_of_end s hscript, State.elapse_script_of_end s hscript]
    exact List.forall_mem_singleton.2 (hwait _ (h _ List.mem_cons_self))
  | cons p ps =>
    rw [State.elapse_pins_of_cons s p ps hscript, State.elapse_script_of_cons s p ps hscript, ← hscript]
    exact fun q hq => h q (List.mem_cons_of_mem _ hq)

/-- The block does not touch what the host drives. -/
theorem CycleCase.levels {s u : State} (h : CycleCase s u) : u.pins = s.pins ∧ u.script = s.script := by
  cases h with
  | reset | accept | stall | wait | start | rest => exact ⟨rfl, rfl⟩
  | present => exact ⟨s.present_pins, s.present_script⟩
  | work u _ hbusy _ _ hwork =>
    obtain ⟨q, g, es, _, hmoved⟩ := workUnit_moved hbusy hwork
    exact ⟨hmoved.around.pins, hmoved.around.script⟩

/-! ### The work left -/

/-- How many units of a body are left at most, with `left` records still declared: more than enough for the longest
leading part, and for the longest list. -/
def BodyPos.workLeft (left : Nat) : BodyPos → Nat
  | .leave => 5
  | .advance _ => 20 * left + 7
  | .view _ => 20 * left + 8
  | .varPart => 20 * left + 9
  | .lead k => 20 * left + 10 + (5 - k)
  | .record => 20 * left + 16
  | .select => 1400000
  | .countField => 1400001
  | .listHeader => 1400002

/-- How many units of work a transaction has left at most. -/
def workLeft (p : Pos) (g : Regs) : Nat :=
  match p with
  | .idle => 0
  | .done => 0
  | .trailer .leave => 1
  | .trailer .endMark => 2
  | .trailer .compare => 3
  | .trailer .declared => 4
  | .payload p => p.workLeft (g.count.toNat - g.idx.toNat)
  | .header .leave => 1400003
  | .header .dispatch => 1400004
  | .header .sub => 1400005
  | .header (.field k) => 1400006 + (6 - k)
  | .foundFrame .leave => 1400013
  | .foundFrame .verify => 1400014
  | .scanning => 1400015 + (5 - g.scanI.toNat)

theorem BodyPos.five_le_workLeft (left : Nat) (p : BodyPos) : 5 ≤ p.workLeft left := by
  cases p <;> simp only [BodyPos.workLeft] <;> omega

/-- A leading part has at most four fields (the table of R206). -/
theorem shapeOf_lead_length {c : Params} {k : Kind} {sh : Shape} (h : shapeOf c k = some sh) : sh.lead.length ≤ 4 := by
  cases k <;> simp only [shapeOf, reduceCtorEq, Option.some.injEq] at h <;> subst h <;> simp

variable {s : State} {q : Pos} {g : Regs} {es : List Wires}

theorem BodyCase.workLeft_lt {m : MuxOut} {p : BodyPos} (h : BodyCase m s p q g es) (hplaced : BodyPlaced s p) :
    workLeft q g < p.workLeft (s.regs.count.toNat - s.regs.idx.toNat) := by
  have hcount : s.regs.count.toNat < 65536 := s.regs.count.isLt
  cases h with
  | selectRecords =>
    have hselected : s.regs.selected.count.toNat < 65536 := s.regs.count.isLt
    simp only [workLeft, BodyPos.workLeft]
    omega
  | advance sh n =>
    obtain ⟨hleft, _⟩ : s.regs.idx.toNat < s.regs.count.toNat ∧ RecordFits s n := hplaced
    have hidx : (s.regs.idx + 1).toNat = s.regs.idx.toNat + 1 := by
      have hone : (1 : Word).toNat = 1 := rfl
      rw [BitVec.toNat_add, hone, Nat.mod_eq_of_lt (by omega)]
    simp only [workLeft, BodyPos.workLeft, Regs.advanced, hidx]
    omega
  | lead sh k f hshape hfield =>
    have hk : k < sh.lead.length := (List.getElem?_eq_some_iff.1 hfield).1
    have hlength := shapeOf_lead_length hshape
    simp only [workLeft, BodyPos.workLeft]
    omega
  | noRecords p _ hloop =>
    cases p with
    | listHeader | countField | select | leave => cases hloop
    | record | lead | varPart | view | advance => simp only [workLeft, BodyPos.workLeft]; omega
  | startId | startIdAbsent | count | countAbsent | selectNothing | errorCode | filter | selectAbsent | recordsEnd
  | recordFits | recordAbsent | leadEnd | rawData | rawDataAbsent | view | leave =>
    simp only [workLeft, BodyPos.workLeft]
    omega

/-- Every unit leaves less work, whatever it reads (R278). -/
theorem UnitCase.workLeft_lt (h : UnitCase s q g es) (hs : Sound s) : workLeft q g < workLeft s.pos s.regs := by
  cases h with
  | scan hpos hcase =>
    rw [hpos]
    cases hcase with
    | rejected _ hi =>
      simp only [workLeft, scanI_toNat (show s.regs.scanI.toNat + 1 ≤ 5 by omega)]
      omega
    | short | exhausted | accepted => simp only [workLeft]; omega
  | found hpos hcase => rw [hpos]; cases hcase <;> simp only [workLeft] <;> omega
  | header hpos hcase =>
    rw [hpos]
    cases hcase with
    | field k tag htag =>
      have hk : k < 6 := (List.getElem?_eq_some_iff.1 htag).1
      simp only [workLeft]
      omega
    | fieldsEnd | sub | subAbsent | dispatched | unknown => simp only [workLeft]; omega
    | leave => simp only [workLeft, BodyPos.workLeft]; omega
  | @body p q g es i hpos hsub hcase =>
    obtain ⟨_, _, _, _, hplaced⟩ : Located s ∧ ControlKept s ∧ TrailerSet s ∧ NotCompared s ∧ BodyPlaced s p := by
      simpa only [Placed, hpos] using hs.placed
    rw [hpos]
    exact hcase.workLeft_lt hplaced
  | @noBody p e hpos _ => rw [hpos]; exact p.five_le_workLeft _
  | trailer hpos hcase => rw [hpos]; cases hcase <;> simp only [workLeft] <;> omega

/-! ### Every transaction ends -/

/-- What stands in the way of the next unit of work when the sink accepts: the waiting events, each to be presented and
accepted, and a wait. -/
def State.portLeft (s : State) : Nat := 2 * s.burst.length + s.pend.valid.toNat + s.pins.wait.toNat

/-- How far a transaction is from its end: first the host's script, then the work, then the events of the last unit. -/
def State.distance (s : State) : Nat ×ₗ Nat ×ₗ Nat :=
  toLex (s.script.length, toLex (workLeft s.pos s.regs, s.portLeft))

theorem State.distance_lt_of_script {s t : State} (h : t.script.length < s.script.length) : t.distance < s.distance :=
  Prod.Lex.toLex_lt_toLex.2 (.inl h)

theorem State.distance_lt {s t : State} (hscript : t.script.length = s.script.length)
    (h : workLeft t.pos t.regs < workLeft s.pos s.regs ∨
      workLeft t.pos t.regs = workLeft s.pos s.regs ∧ t.portLeft < s.portLeft) : t.distance < s.distance :=
  Prod.Lex.toLex_lt_toLex.2 (.inr ⟨hscript, Prod.Lex.toLex_lt_toLex.2 h⟩)

/-- At the end of the script, with the sink accepting, a step of a running transaction brings it nearer to its end. -/
theorem CycleCase.distance_lt_at_end {u : State} (h : CycleCase s u) (hs : Sound s) (hbusy : s.pos.busy = true)
    (hscript : s.script = []) (hrst : s.pins.rst = false) (hready : s.pins.evReady = true) :
    u.elapse.distance < s.distance := by
  obtain ⟨hpins, hscript'⟩ := h.levels
  have hend : u.script = [] := hscript'.trans hscript
  have hlength : u.elapse.script.length = s.script.length := by rw [State.elapse_script_of_end u hend, hscript]
  have hport : u.elapse.portLeft = 2 * u.burst.length + u.pend.valid.toNat := by
    rw [State.portLeft, State.elapse_pins_of_end u hend, State.elapse_burst, State.elapse_pend]
    rfl
  refine State.distance_lt hlength ?_
  rw [hport, State.elapse_pos, State.elapse_regs, State.portLeft]
  cases h with
  | reset hset => exact absurd hset (by simp [hrst])
  | start _ _ hidle => exact absurd hbusy (by simp [hidle])
  | rest _ _ hidle => exact absurd hbusy (by simp [hidle])
  | stall _ _ hnot => exact absurd hready (by simp [hnot])
  | accept _ hvalid _ =>
    refine .inr ⟨rfl, ?_⟩
    rw [State.accept_burst, State.accept_pend, hvalid, Bool.toNat_true, Bool.toNat_false]
    omega
  | wait _ _ _ hwait =>
    refine .inr ⟨rfl, ?_⟩
    rw [hwait, Bool.toNat_true]
    omega
  | present _ hvalid _ _ hburst =>
    obtain ⟨e, es, hes⟩ := List.exists_cons_of_ne_nil hburst
    refine .inr ⟨by rw [State.present_pos, State.present_regs], ?_⟩
    simp only [State.present, hvalid, hes, List.length_cons, Bool.toNat_true, Bool.toNat_false]
    omega
  | work u _ _ _ _ hwork =>
    obtain ⟨q, g, es, hcase, hmoved⟩ := workUnit_moved hbusy hwork
    rw [hmoved.pos, hmoved.regs]
    exact .inl (hcase.workLeft_lt hs)

theorem State.settles_hostStore (h : s.settles) : s.hostStore.settles := by
  simpa only [State.settles, State.hostStore_pins, State.hostStore_script] using h

theorem State.settles_elapse (h : s.settles) : s.elapse.settles := by
  obtain ⟨hlow, hready⟩ := h
  refine ⟨State.elapse_levels (P := fun p => p.rst = false ∧ p.start = false) (fun p hp => hp) hlow, ?_⟩
  cases hscript : s.script with
  | nil =>
    rw [State.elapse_pins_of_end s hscript, State.elapse_script_of_end s hscript]
    rwa [hscript] at hready
  | cons p ps =>
    rw [State.elapse_pins_of_cons s p ps hscript, State.elapse_script_of_cons s p ps hscript]
    rwa [hscript, List.getLast?_cons, Option.getD_some] at hready

theorem CycleCase.settles {u : State} (h : CycleCase s u) (hs : s.settles) : u.settles := by
  obtain ⟨hpins, hscript⟩ := h.levels
  rwa [State.settles, hpins, hscript]

/-- Only RST leads from a running transaction to IDLE (R261). -/
theorem Pos.idle_not_mem_phaseStep {p : Pos} (h : p.busy = true) : Phase.idle ∉ phaseStep p.phase := by
  cases p with
  | idle | done => cases h
  | scanning | foundFrame | header | payload | trailer => simp [Pos.phase, phaseStep]

/-- A step of a running transaction under a settling schedule: the schedule goes on settling, the transaction is nearer to
its end, and it goes on or is DONE. -/
theorem step_toward_end {t : State} (hs : Sound s) (hsettles : s.settles) (hbusy : s.pos.busy = true)
    (hstep : step s = .next t) : t.settles ∧ t.distance < s.distance ∧ (t.pos.busy = true ∨ t.pos = .done) := by
  obtain ⟨u, hcase, rfl⟩ := step_cases hstep
  obtain ⟨hlow, hready⟩ := hsettles
  obtain ⟨hrst, -⟩ := hlow s.pins List.mem_cons_self
  refine ⟨State.settles_elapse (hcase.settles (State.settles_hostStore ⟨hlow, hready⟩)), ?_, ?_⟩
  · cases hscript : s.script with
    | nil =>
      have hlt := hcase.distance_lt_at_end hs.hostStore (by rwa [State.hostStore_pos])
        (by rw [State.hostStore_script, hscript]) (by rwa [State.hostStore_pins])
        (by rwa [State.hostStore_pins, ← Option.getD_none (a := s.pins), ← List.getLast?_nil, ← hscript])
      rwa [State.distance, State.distance, State.portLeft, State.portLeft, State.hostStore_script, State.hostStore_pos,
        State.hostStore_regs, State.hostStore_burst, State.hostStore_pend, State.hostStore_pins] at hlt
    | cons p ps =>
      refine State.distance_lt_of_script ?_
      have hthen : u.script = p :: ps := hcase.levels.2.trans (s.hostStore_script.trans hscript)
      rw [State.elapse_script_of_cons u p ps hthen, hscript, List.length_cons]
      exact Nat.lt_succ_self _
  · have hphase := hcase.phase
    rw [State.hostStore_pins, if_neg (by simp [hrst]), State.hostStore_pos] at hphase
    rw [State.elapse_pos]
    by_contra hnot
    rw [not_or, Bool.not_eq_true, Pos.busy_eq_false_iff] at hnot
    obtain ⟨hidle | hdone, hnotDone⟩ := hnot
    · rw [hidle] at hphase
      exact Pos.idle_not_mem_phaseStep hbusy hphase
    · exact hnotDone hdone

/-- Settles O51, by induction on the distance: a step from a running transaction answers (`invariantNeverStops`), keeps
the invariant, and brings the transaction nearer to its end (`step_toward_end`). -/
theorem everyTransactionEnds : Obligations.EveryTransactionEnds := by
  intro s hs hsettles
  induction hdistance : s.distance using WellFoundedLT.induction generalizing s with
  | ind d ih =>
    subst hdistance
    cases hbusy : s.pos.busy with
    | false => exact ⟨0, s, rfl, hbusy, fun h => by cases h⟩
    | true =>
      obtain ⟨t, hstep⟩ := invariantNeverStops s hs
      obtain ⟨hsettles', hlt, hpos⟩ := step_toward_end ((inv_iff s).1 hs).2 hsettles hbusy hstep
      obtain hgoes | hdone := hpos
      · obtain ⟨n, u, hrun, hend, hdone⟩ := ih _ hlt t (invariantKept s t hs hstep) hsettles' rfl
        exact ⟨n + 1, u, runsTo_succ hstep hrun, hend, fun _ => hdone hgoes⟩
      · exact ⟨1, t, runsTo_succ hstep rfl, by rw [hdone]; rfl, fun _ => hdone⟩

/-! ### An accepted START -/

/-- While the transaction goes on, a cycle changes neither the buffer nor whether it is disturbed. -/
theorem CycleCase.unstable_of_busy {u : State} (h : CycleCase s u) (hbusy : s.pos.busy = true)
    (hgoes : u.pos.busy = true) : u.unstable = s.unstable := by
  cases h with
  | reset => cases hgoes
  | accept | stall | wait | rest => rfl
  | present => exact s.present_unstable
  | start _ _ hidle => exact absurd hbusy (by simp [hidle])
  | work u _ _ _ _ hwork =>
    obtain ⟨q, g, es, _, hmoved⟩ := workUnit_moved hbusy hwork
    exact hmoved.around.unstable

/-- Looking less far ahead finds no more changes. -/
theorem State.changesAhead_le {m n : Nat} (hle : m ≤ n) {s : State} (h : s.changesAhead n = false) :
    s.changesAhead m = false := by
  induction m generalizing n s with
  | zero => rfl
  | succ m ih =>
    obtain ⟨n, rfl⟩ := Nat.exists_eq_add_of_le' (Nat.le_trans (Nat.succ_le_succ (Nat.zero_le m)) hle)
    obtain ⟨hunstable, hahead⟩ := (State.changesAhead_succ n s).1 h
    exact (State.changesAhead_succ m s).2
      ⟨hunstable, fun t ht hbusy => ih (Nat.le_of_succ_le_succ hle) (hahead t ht hbusy)⟩

/-- A host without a store left changes nothing. -/
theorem State.changesAhead_of_noStore (n : Nat) {s : State} (hbusy : s.pos.busy = true) (hunstable : s.unstable = false)
    (hstore : ∀ p ∈ s.pins :: s.script, p.store = none) : s.changesAhead n = false := by
  induction n generalizing s with
  | zero => rfl
  | succ n ih =>
    rw [State.changesAhead_succ, State.hostStore_of_none s (hstore _ List.mem_cons_self)]
    refine ⟨hunstable, fun t ht hgoes => ih (by rwa [State.elapse_pos]) ?_ ?_⟩
    · rw [State.elapse_unstable, (busyCycle_next s t hbusy ht).unstable_of_busy hbusy hgoes, hunstable]
    · obtain ⟨hpins, hscript⟩ := (busyCycle_next s t hbusy ht).levels
      exact State.elapse_levels (P := fun p => p.store = none) (fun p hp => hp) (by rwa [hpins, hscript])

/-- The host changes no byte of the running transaction's buffer, now or later: its script says so, or the script is at
its end and the store that is repeated stands already. -/
def State.undisturbed (s : State) : Prop :=
  s.unstable = false ∧ (s.changesAhead (s.script.length + 1) = false ∨
    s.script = [] ∧ ∀ st, s.pins.store = some st → Memory.read s.buf st.addr.val = some st.byte)

/-- A store below an undisturbed transaction changes nothing. -/
theorem State.undisturbed_hostStore (h : s.undisturbed) : s.hostStore.unstable = false := by
  obtain ⟨hunstable, hahead | ⟨_, hstands⟩⟩ := h
  · exact ((State.changesAhead_succ _ s).1 hahead).1
  · cases hstore : s.pins.store with
    | none => rwa [State.hostStore_of_none s hstore]
    | some st => simp [State.hostStore, hstore, hunstable, hstands st hstore]

theorem State.hostStore_stands (s : State) {st : HostStore} (hstore : s.pins.store = some st) :
    Memory.read s.hostStore.buf st.addr.val = some st.byte := by
  simp only [State.hostStore, hstore, Memory.read_write_same]

theorem step_undisturbed {t : State} (h : s.undisturbed) (hbusy : s.pos.busy = true) (hstep : step s = .next t)
    (hgoes : t.pos.busy = true) : t.undisturbed := by
  obtain ⟨u, hcycle, rfl⟩ := (step_next s t).1 hstep
  have hbusy' : s.hostStore.pos.busy = true := by rwa [State.hostStore_pos]
  have hgoes' : u.pos.busy = true := by rwa [State.elapse_pos] at hgoes
  have hcase := cycle_next _ _ hcycle
  obtain ⟨hpins, hscript⟩ := hcase.levels
  rw [State.hostStore_pins] at hpins
  rw [State.hostStore_script] at hscript
  refine ⟨?_, ?_⟩
  · rw [State.elapse_unstable, hcase.unstable_of_busy hbusy' hgoes', State.undisturbed_hostStore h]
  · cases hs : s.script with
    | nil =>
      rw [hs] at hscript
      refine .inr ⟨State.elapse_script_of_end u hscript, fun st hst => ?_⟩
      rw [State.elapse_pins_of_end u hscript, hpins] at hst
      rw [State.elapse_buf, hcase.buf_params.1]
      exact s.hostStore_stands hst
    | cons p ps =>
      obtain ⟨_, hahead | ⟨hend, _⟩⟩ := h
      · rw [cycle_of_busy _ hbusy'] at hcycle
        have hlength : u.elapse.script.length + 1 = s.script.length := by
          rw [State.elapse_script_of_cons u p ps (hscript.trans hs), hs, List.length_cons]
        rw [hlength]
        exact .inl (((State.changesAhead_succ _ s).1 hahead).2 u hcycle hgoes')
      · rw [hs] at hend; cases hend

theorem runsTo_undisturbed {n : Nat} {s u : State} (h : s.undisturbed) (hrun : runsTo n s u)
    (hbusy : ∀ k v, k ≤ n → runsTo k s v → v.pos.busy = true) : u.undisturbed := by
  induction n generalizing s with
  | zero => exact (runsTo_zero_iff s u).1 hrun ▸ h
  | succ n ih =>
    obtain ⟨t, hstep, hrun'⟩ := (runsTo_succ_iff n s u).1 hrun
    have hgoes : ∀ k v, k ≤ n → runsTo k t v → v.pos.busy = true := fun k v hk hv =>
      hbusy (k + 1) v (Nat.succ_le_succ hk) (runsTo_succ hstep hv)
    exact ih (step_undisturbed h (hbusy 0 s (Nat.zero_le _) rfl) hstep (hgoes 0 t (Nat.zero_le _) rfl)) hrun' hgoes

/-- In IDLE and DONE an accepted START is the whole step (R262). -/
theorem step_of_start (hpos : s.pos = .idle ∨ s.pos = .done) (hvalid : s.pend.valid = false)
    (hrst : s.pins.rst = false) (hstart : s.pins.start = true) :
    step s = .next s.hostStore.beginTransaction.elapse := by
  refine (step_next s _).2 ⟨_, ?_, rfl⟩
  have hidle : s.pos.busy = false := (Pos.busy_eq_false_iff s.pos).2 hpos
  simp only [cycle, State.hostStore_pos, State.hostStore_pins, State.hostStore_pend, hidle, hrst, hvalid, hstart,
    Bool.false_eq_true, if_false, if_true]

/-- Whether a new transaction is marked is whether its START finds a change ahead. -/
theorem State.beginTransaction_unstable (s : State) : s.beginTransaction.unstable =
    s.startTransaction.elapse.changesAhead (s.script.length + 1) := rfl

/-- A transaction that is not marked at its START is undisturbed. -/
theorem undisturbed_of_start (h : s.beginTransaction.unstable = false) : s.beginTransaction.elapse.undisturbed := by
  have hsame : s.beginTransaction = s.startTransaction := by
    have heta : s.beginTransaction = { s.startTransaction with unstable := s.beginTransaction.unstable } := rfl
    rw [heta, h]
    rfl
  rw [State.beginTransaction_unstable] at h
  rw [hsame]
  refine ⟨by rw [State.elapse_unstable, State.startTransaction_unstable], .inl (State.changesAhead_le ?_ h)⟩
  cases hscript : s.script with
  | nil => rw [State.elapse_script_of_end _ (by rwa [State.startTransaction_script])]
  | cons p ps =>
    rw [State.elapse_script_of_cons _ p ps (by rwa [State.startTransaction_script]), List.length_cons]
    exact Nat.le_succ _

/-- With no store left a new transaction is not marked. -/
theorem beginTransaction_stable (hstore : ∀ p ∈ s.pins :: s.script, p.store = none) :
    s.beginTransaction.unstable = false := by
  rw [State.beginTransaction_unstable]
  refine State.changesAhead_of_noStore _ (by rw [State.elapse_pos]; rfl) (by rw [State.elapse_unstable]; rfl) ?_
  exact State.elapse_levels (P := fun p => p.store = none) (fun p hp => hp) hstore

/-- Settles O38: an accepted START is the whole step (`step_of_start`); with no store left it is not marked
(`beginTransaction_stable`), and what is not marked stays undisturbed while it runs (`runsTo_undisturbed`). -/
theorem startBeginsTransaction : Obligations.StartBeginsTransaction := by
  intro s hpos hvalid hrst hstart
  refine ⟨_, step_of_start hpos hvalid hrst hstart, ?pos, ?pend, ?sink, ?regs, fun hstore => ?stable,
    fun hstable n u hrun hbusy => ?undisturbed⟩
  case pos => rw [State.elapse_pos]; rfl
  case pend => rw [State.elapse_pend, State.beginTransaction_pend, State.hostStore_pend]
  case sink => rw [State.elapse_sink, State.beginTransaction_sink, State.hostStore_sink]
  case regs => rw [State.elapse_regs, State.beginTransaction_regs, State.hostStore_pins]; rfl
  case stable =>
    rw [State.elapse_unstable, State.hostStore_of_none s (hstore _ List.mem_cons_self)]
    exact beginTransaction_stable hstore
  case undisturbed =>
    rw [State.elapse_unstable] at hstable
    exact (runsTo_undisturbed (undisturbed_of_start hstable) hrun hbusy).1

end Sys2Proof.Machine
end

section
/-!
SUPPORT. The opcode map and the mux (30_encoding.md R96, R100; 43_dispatch.md R170, R171), the tag codes (R269), and the result
port (10_state.md R21, R42).
-/

namespace Sys2Proof.Machine

theorem decodeSub_code (i : Instr) : decodeSub i.code = .ok i := by cases i <;> rfl

/-- A byte that decodes is the code of what it decodes to (R96). -/
theorem eq_code_of_decodeSub {b : Byte} {i : Instr} (h : decodeSub b = .ok i) : b = i.code := by
  unfold decodeSub at h
  split at h <;> cases h <;> exact BitVec.eq_of_toNat_eq ‹_›

theorem decodeSub_error {b : Byte} {e : DecodeError} (h : decodeSub b = .error e) : e = .unknownSub b := by
  unfold decodeSub at h
  split at h <;> cases h
  rfl

/-- Settles O1: the map is a table of 18 rows read both ways (`decodeSub_code`, `eq_code_of_decodeSub`), and whatever is in
no row is rejected by name (`decodeSub_error`). -/
theorem decodeAgreesWithEncode : Obligations.DecodeAgreesWithEncode := by
  refine ⟨fun i rest => ?_, fun b i => eq_code_of_decodeSub, fun b hnone => ?_, rfl⟩
  · rw [encode, List.singleton_append, decode, decodeSub_code]
  · cases hdecode : decodeSub b with
    | ok i => exact absurd (eq_code_of_decodeSub hdecode).symm (hnone i)
    | error e => rw [decodeSub_error hdecode]

/-- Settles O2: ten closed lookups in the table. -/
theorem opcodeMapWords : Obligations.OpcodeMapWords := by
  refine ⟨?_, ?_, ?_, ?_, ?_, ?_, ?_, ?_, ?_, ?_⟩ <;> decide

/-- The mux answers NONE, without a count-zero convention, for a byte that is no sub-service (R100, R170, R172). -/
theorem dispatch_of_error {b : Byte} {e : DecodeError} (h : decodeSub b = .error e) :
    dispatch b = { kind := .none, zc := false, idxhdr := b == 0x07 || b == 0x87 } := by
  simp only [dispatch, h, if_true]

theorem kindTable_ne_none (i : Instr) : kindTable i ≠ .none := by cases i <;> decide

/-- The mux's kind is NONE exactly where SUB is no sub-service (R172). -/
theorem dispatch_kind_eq_none_iff (b : Byte) : (dispatch b).kind = .none ↔ ∃ e, decodeSub b = .error e := by
  cases h : decodeSub b with
  | ok i => simp [eq_code_of_decodeSub h, dispatch_kind, kindTable_ne_none]
  | error e => simp [dispatch_of_error h]

/-- Settles O3: a byte is the code of one of the 18 sub-services, each a row of the table, or none of those codes. -/
theorem muxOutputs : Obligations.MuxOutputs := by
  refine ⟨fun sub => ?_, rfl, fun k => ?_⟩
  · cases h : decodeSub sub with
    | ok i =>
      rw [eq_code_of_decodeSub h]
      cases i <;> rfl
    | error e =>
      have hnot : ∀ codes : List Byte, codes ⊆ Instr.all.map Instr.code → sub ∉ codes := by
        intro codes hsub hmem
        obtain ⟨i, _, hi⟩ := List.mem_map.1 (hsub hmem)
        rw [← hi, decodeSub_code] at h
        cases h
      have hidx : (sub == 0x07 || sub == 0x87) = decide (sub ∈ [0x07, 0x87]) := by
        rw [Bool.eq_iff_iff, Bool.or_eq_true, beq_iff_eq, beq_iff_eq, decide_eq_true_iff, List.mem_pair]
      rw [dispatch_of_error h, hidx]
      simp (disch := decide) only [hnot, if_false, decide_false]
  · cases k <;> decide

/-- Settles O4: a closed table. -/
theorem tagCodes : Obligations.TagCodes := by
  refine ⟨?_, ?_, ?_, ?_, ?_⟩ <;> rfl

/-- A value cut to a register's width (R336). -/
theorem and_mask_lt (v : Word) {w : Nat} (hw : w ≤ 16) : (v &&& BitVec.ofNat 16 (2 ^ w - 1)).toNat < 2 ^ w := by
  have hpow : 2 ^ w ≤ 2 ^ 16 := Nat.pow_le_pow_right (by decide) hw
  have hpos : 0 < 2 ^ w := Nat.two_pow_pos w
  rw [BitVec.toNat_and, BitVec.toNat_ofNat, Nat.mod_eq_of_lt (by omega)]
  exact Nat.lt_of_le_of_lt Nat.and_le_right (by omega)

theorem regWidth_le (r : BitVec 4) : regWidth r ≤ 16 := by
  unfold regWidth
  split <;> decide

/-- Settles O45: with BUSY = 0 the port is the register file read out number by number; with BUSY = 1 it is a free value
cut to the register's width (`and_mask_lt`). -/
theorem resultPortReads : Obligations.ResultPortReads := by
  refine fun s => ⟨fun hbusy => ?_, fun r hbusy => ?_⟩
  · have hread : s.rdataOf = s.regs.result := by
      funext r
      simp only [State.rdataOf, hbusy, Bool.false_eq_true, if_false]
    rw [hread]
    rfl
  · simp only [State.rdataOf, hbusy, if_true]
    exact and_mask_lt _ (regWidth_le r)

end Sys2Proof.Machine
end

section
/-!
SUPPORT. The locator (41_locator.md): the four tests of a candidate as facts about bytes, LOCATE, and the units of SCANNING.
-/

namespace Sys2Proof.Machine

variable {s : State}

/-- The four tests of R131, all inside the buffer. -/
theorem State.passes_iff (s : State) (i : Nat) : s.passes i = true ↔
    i + 6 ≤ s.regs.len.toNat ∧ s.byteAt i = 0x68 ∧ s.byteAt (i + 3) = 0x68 ∧
      s.byteAt (i + 4) ∈ [0x73, 0x53, 0xF3, 0xD3] ∧ s.byteAt (i + 5) = 0xF0 := by
  simp only [State.passes, State.markersAt, State.controlAt, State.mainAt, Bool.and_eq_true, State.guardedTest_iff,
    List.contains_iff_mem, beq_iff_eq, ctrlSet, Config.ftStart, Config.baosMain]
  refine ⟨fun ⟨⟨⟨⟨_, h0⟩, _, h3⟩, _, h4⟩, hlen, h5⟩ => ⟨hlen, h0, h3, h4, h5⟩, fun ⟨hlen, h0, h3, h4, h5⟩ => ?_⟩
  exact ⟨⟨⟨⟨by omega, h0⟩, by omega, h3⟩, by omega, h4⟩, hlen, h5⟩

/-- The first three tests, which FT_FOUND records (R131, R133). -/
theorem State.ftFoundAt_iff (s : State) (i : Nat) : s.ftFoundAt i = true ↔
    i + 5 ≤ s.regs.len.toNat ∧ s.byteAt i = 0x68 ∧ s.byteAt (i + 3) = 0x68 ∧
      s.byteAt (i + 4) ∈ [0x73, 0x53, 0xF3, 0xD3] := by
  simp only [State.ftFoundAt, State.markersAt, State.controlAt, Bool.and_eq_true, State.guardedTest_iff,
    List.contains_iff_mem, beq_iff_eq, ctrlSet, Config.ftStart]
  refine ⟨fun ⟨⟨⟨_, h0⟩, _, h3⟩, hlen, h4⟩ => ⟨hlen, h0, h3, h4⟩, fun ⟨hlen, h0, h3, h4⟩ => ?_⟩
  exact ⟨⟨⟨by omega, h0⟩, by omega, h3⟩, hlen, h4⟩

theorem State.locateFrom_eq_some_iff (s : State) (n i j : Nat) : s.locateFrom i n = some j ↔
    i ≤ j ∧ j < i + n ∧ s.passes j = true ∧ ∀ k, i ≤ k → k < j → s.passes k = false := by
  induction n generalizing i with
  | zero => simp only [State.locateFrom, reduceCtorEq, false_iff]; omega
  | succ n ih =>
    simp only [State.locateFrom]
    cases hpass : s.passes i with
    | true =>
      simp only [if_true, Option.some.injEq]
      refine ⟨fun heq => heq ▸ ⟨le_rfl, by omega, hpass, fun k _ _ => by omega⟩, fun ⟨hle, _, _, hfirst⟩ => ?_⟩
      by_contra hne
      have hnot := hfirst i le_rfl (by omega)
      rw [hpass] at hnot
      cases hnot
    | false =>
      simp only [Bool.false_eq_true, if_false, ih]
      refine ⟨fun ⟨hle, hlt, hj, hfirst⟩ => ⟨by omega, by omega, hj, fun k hk hkj => ?_⟩,
        fun ⟨hle, hlt, hj, hfirst⟩ => ⟨?_, by omega, hj, fun k hk hkj => hfirst k (by omega) hkj⟩⟩
      · obtain rfl | hne := eq_or_ne k i
        · exact hpass
        · exact hfirst k (by omega) hkj
      · obtain rfl | hne := eq_or_ne i j
        · rw [hpass] at hj; cases hj
        · omega

theorem State.locateFrom_eq_none_iff (s : State) (n i : Nat) :
    s.locateFrom i n = none ↔ ∀ j, i ≤ j → j < i + n → s.passes j = false := by
  induction n generalizing i with
  | zero => simp only [State.locateFrom, true_iff]; omega
  | succ n ih =>
    simp only [State.locateFrom]
    cases hpass : s.passes i with
    | true =>
      simp only [if_true, reduceCtorEq, false_iff, not_forall]
      exact ⟨i, le_rfl, by omega, by simp [hpass]⟩
    | false =>
      simp only [Bool.false_eq_true, if_false, ih]
      refine ⟨fun h j hij hj => ?_, fun h j hij hj => h j (by omega) (by omega)⟩
      obtain rfl | hne := eq_or_ne j i
      · exact hpass
      · exact h j (by omega) (by omega)

theorem State.guardedTest_congr {s t : State} {a : Nat} (hlen : t.regs.len = s.regs.len)
    (hbyte : a < s.regs.len.toNat → t.byteAt a = s.byteAt a) (p : Byte → Bool) : t.guardedTest a p = s.guardedTest a p := by
  rw [Bool.eq_iff_iff, State.guardedTest_iff, State.guardedTest_iff, hlen]
  exact and_congr_right fun h => by rw [hbyte h]

/-- A candidate's tests read five bytes at most, the last at i + 5 (R131, R135). -/
theorem State.passes_congr {s t : State} {i : Nat} (hlen : t.regs.len = s.regs.len)
    (hbyte : ∀ a, a < s.regs.len.toNat → a ≤ i + 5 → t.byteAt a = s.byteAt a) : t.passes i = s.passes i := by
  simp only [State.passes, State.markersAt, State.controlAt, State.mainAt]
  rw [State.guardedTest_congr hlen fun h => hbyte i h (by omega),
    State.guardedTest_congr hlen fun h => hbyte (i + 3) h (by omega),
    State.guardedTest_congr hlen fun h => hbyte (i + 4) h (by omega),
    State.guardedTest_congr hlen fun h => hbyte (i + 5) h (by omega)]

theorem State.locateFrom_congr {s t : State} (n i : Nat) (h : ∀ j, i ≤ j → j < i + n → t.passes j = s.passes j) :
    t.locateFrom i n = s.locateFrom i n := by
  induction n generalizing i with
  | zero => rfl
  | succ n ih =>
    simp only [State.locateFrom]
    rw [h i le_rfl (by omega), ih (i + 1) fun j hij hj => h j (by omega) (by omega)]

/-- Settles O6: LOCATE is the loop over 0..4 (`State.locateFrom_eq_some_iff`, `State.locateFrom_eq_none_iff`); a candidate
that passes needs six bytes, and its tests read no byte beyond i + 5. -/
theorem locateContract : Obligations.LocateContract := by
  refine ⟨fun s i => ?_, fun s => ?_, fun s hlen => ?_, fun s t hlen hbyte => ?_⟩
  · rw [State.locate, State.locateFrom_eq_some_iff, Config.scanWindow]
    exact ⟨fun ⟨_, hi, hpass, hfirst⟩ => ⟨by omega, hpass, fun j hj => hfirst j (Nat.zero_le j) hj⟩,
      fun ⟨hi, hpass, hfirst⟩ => ⟨Nat.zero_le i, by omega, hpass, fun j _ hj => hfirst j hj⟩⟩
  · rw [State.locate, State.locateFrom_eq_none_iff, Config.scanWindow]
    exact ⟨fun h j hj => h j (Nat.zero_le j) (by omega), fun h j _ hj => h j (by omega)⟩
  · refine (State.locateFrom_eq_none_iff s _ _).2 fun j _ _ => ?_
    rw [Bool.eq_false_iff, Ne, State.passes_iff]
    omega
  · refine State.locateFrom_congr _ _ fun j _ hj => State.passes_congr hlen fun a ha hle => hbyte a ha ?_
    rw [Config.scanWindow] at hj
    omega

/-- A buffer in which two candidates pass: one at 0 and one three bytes further, or both shifted by one byte of junk. -/
def overlappingFrames (junk : List Byte) : State :=
  { State.reset with
    regs := { Regs.reset with len := 10 }
    buf := Memory.writeAll [] 0 (junk ++ [0x68, 0, 0, 0x68, 0x73, 0xF0, 0x68, 0x73, 0xF0]) }

/-- Settles O7: two candidates one, two or four bytes apart would need one byte to be a start marker and a control code
or the main service; both pairs three bytes apart occur (`overlappingFrames`). -/
theorem overlapsThreeApart : Obligations.OverlapsThreeApart := by
  refine ⟨fun s i j hij hj hi hj' => ?_, ⟨overlappingFrames [], by decide, by decide⟩,
    ⟨overlappingFrames [0], by decide, by decide⟩⟩
  obtain ⟨_, _, _, hctrl, hmain⟩ := (s.passes_iff i).1 hi
  obtain ⟨_, hfirst, hsecond, _, _⟩ := (s.passes_iff j).1 hj'
  have hne1 : j ≠ i + 1 := by
    rintro rfl
    rw [hsecond] at hctrl
    exact absurd hctrl (by decide)
  have hne2 : j ≠ i + 2 := by
    rintro rfl
    rw [hsecond] at hmain
    exact absurd hmain (by decide)
  have hne4 : j ≠ i + 4 := by
    rintro rfl
    rw [hfirst] at hctrl
    exact absurd hctrl (by decide)
  omega

theorem workUnit_of_scanUnit {t : State} (hpos : s.pos = .scanning) (hunit : scanUnit s = .ok t) :
    workUnit s = .next t := by
  simp only [workUnit, hpos, hunit, outcomeOf]

/-- Settles O8: in a short buffer, and with the candidates exhausted, the unit raises NotRecognized and enters DONE; on an
empty event port NotRecognized does nothing. -/
theorem scanEndsUnrecognized : Obligations.ScanEndsUnrecognized := by
  refine ⟨fun s hpos hfree hlen => ?_, fun s hpos hfree hlen hend => ?_⟩
  · refine workUnit_of_scanUnit hpos ?_
    rw [scanUnit, Config.minLen, if_pos hlen,
      State.raise_notRecognized_of_empty (s.setStatus .short) hfree.2]
    rfl
  · refine workUnit_of_scanUnit hpos ?_
    simp only [scanUnit, Config.minLen, if_neg (Nat.not_lt.2 hlen), Config.scanWindow, if_pos hend,
      State.raise_notRecognized_of_empty _ hfree.2]
    rfl

/-- Settles O9: the candidate passes (`State.passes_iff`), so the unit's answer is the accepting case of `scanUnit_ok`. -/
theorem scanAccepts : Obligations.ScanAccepts := by
  intro s i hpos hlen hi hwindow h0 h3 h4 h5
  subst hi
  have hpass : s.passes s.regs.scanI.toNat = true := (s.passes_iff _).2 ⟨by omega, h0, h3, h4, h5⟩
  have hfound : s.ftFoundAt s.regs.scanI.toNat = true := (s.ftFoundAt_iff _).2 ⟨by omega, h0, h3, h4⟩
  refine ⟨?_, by omega, fun hstable hbacked => s.byteAgain_of_backed _ hstable hbacked⟩
  obtain ⟨t, hunit⟩ := scanUnit_answers s
  rw [workUnit_of_scanUnit hpos hunit]
  obtain ⟨hshort, _⟩ | ⟨_, hend, _⟩ | ⟨_, _, _, rfl⟩ | ⟨_, _, hnot, _⟩ := scanUnit_ok s t hunit
  · omega
  · omega
  · rw [hfound]
  · rw [hpass] at hnot; cases hnot

/-- Settles O10: the candidate does not pass, so the unit's answer is the rejecting case of `scanUnit_ok`. -/
theorem scanRejects : Obligations.ScanRejects := by
  intro s i hpos hlen hi hwindow hfails
  subst hi
  have hnot : s.passes s.regs.scanI.toNat = false :=
    Bool.eq_false_iff.2 fun hpass => hfails ((s.passes_iff _).1 hpass).2
  have hfound : s.ftFoundAt s.regs.scanI.toNat = decide (s.byteAt s.regs.scanI.toNat = 0x68 ∧
      s.byteAt (s.regs.scanI.toNat + 3) = 0x68 ∧
      s.byteAt (s.regs.scanI.toNat + 4) ∈ [0x73, 0x53, 0xF3, 0xD3]) := by
    rw [Bool.eq_iff_iff, State.ftFoundAt_iff, decide_eq_true_iff]
    exact and_iff_right (by omega)
  obtain ⟨t, hunit⟩ := scanUnit_answers s
  rw [workUnit_of_scanUnit hpos hunit]
  obtain ⟨hshort, _⟩ | ⟨_, hend, _⟩ | ⟨_, _, hpass, _⟩ | ⟨_, _, _, rfl⟩ := scanUnit_ok s t hunit
  · omega
  · omega
  · rw [hnot] at hpass; cases hpass
  · rw [hfound]; rfl

end Sys2Proof.Machine
end

section
/-!
SUPPORT. The units of FOUND_FRAME, HEADER_DECODED, PAYLOAD_DECODED and TRAILER_CHECKED on an empty event port, as the state they
answer (42_integrity.md, 43_dispatch.md, 44_record_streams.md).
-/

namespace Sys2Proof.Machine

/-- The end-marker check (R151). -/
theorem State.endMarkerAt_iff (s : State) (t : Nat) :
    s.endMarkerAt t = true ↔ t + 1 < s.regs.len.toNat ∧ s.byteAt (t + 1) = 0x16 := by
  rw [State.endMarkerAt, State.guardedTest_iff, beq_iff_eq]
  rfl

/-- Settles O12: the two cases of `verifyWork_eq`, on an empty event port. -/
theorem verifyEndMarker : Obligations.VerifyEndMarker := by
  refine ⟨fun s hpos hfree => ?_, fun s hpos => by simp only [workUnit, hpos]; rfl⟩
  intro t
  have hwork : workUnit s = .next (verifyWork s) := by simp only [workUnit, hpos, foundUnit]
  rw [hwork, verifyWork_eq]
  by_cases hend : t + 1 < s.regs.len.toNat ∧ s.byteAt (t + 1) = 0x16
  · rw [if_pos hend, if_pos ((s.endMarkerAt_iff s.declaredEnd).2 hend)]
    rfl
  · rw [if_neg hend, if_neg (mt (s.endMarkerAt_iff s.declaredEnd).1 hend)]
    exact congrArg Host.Outcome.next (State.emit_of_free _ _ hfree)

/-- Inside the buffer the compare's unit answers by whether the sum is the declared byte (R154, R155). -/
theorem compareUnit_eq {s : State} (hlow : s.frameStart + 4 ≤ s.trailerOffset)
    (hlen : s.trailerOffset < s.regs.len.toNat) :
    compareUnit s = .ok (
      if s.frameSum = s.regs.csumDecl then
        (s.setRegs { s.regs with
          csumAcc := s.frameSum, csumCalc := s.frameSum
          status := setFlag (setFlag s.regs.status .csumChecked) .csumOk }).goto (.trailer .endMark)
      else
        ((s.setRegs { s.regs with
          csumAcc := s.frameSum, csumCalc := s.frameSum, status := setFlag s.regs.status .csumChecked }).goto
            (.trailer .endMark)).emit
          [diagEvent .error .checksumMismatch (s.frameSum.setWidth 16) (s.regs.csumDecl.setWidth 16)]) := by
  have hsum : s.checksum (s.frameStart + 4) s.trailerOffset = .ok s.frameSum := s.checksum_eq _ _ hlow hlen.le
  simp only [compareUnit, hsum]
  by_cases hsame : s.frameSum = s.regs.csumDecl
  · rw [if_pos hsame]
    simp only [beq_iff_eq.2 hsame, setFlagIf, if_true]
  · rw [if_neg hsame]
    simp only [beq_eq_false_iff_ne.2 hsame, setFlagIf, Bool.false_eq_true, if_false]
    rfl

/-- Settles O14: the unit is `compareUnit_eq`, whose sum is the true sum mod 256 (`toNat_sumOf`). -/
theorem trailerCompares : Obligations.TrailerCompares := by
  intro s hpos hfree hlow hlen lo c
  have hc : c = s.frameSum := BitVec.eq_of_toNat_eq ((BitVec.toNat_ofNat _ _).trans (toNat_sumOf _ _ _).symm)
  rw [hc, workUnit_of_trailerUnit hpos (compareUnit_eq hlow hlen)]
  split
  · rfl
  · exact congrArg Host.Outcome.next (State.emit_of_free _ _ hfree)

/-- Settles O15: the field's byte lies inside the buffer, so its unit reads and offers it. -/
theorem headerFields : Obligations.HeaderFields := by
  intro s k tag hpos hfree htag hlen
  have hk : k < 6 := (List.getElem?_eq_some_iff.1 htag).1
  have hread : s.readByte (s.frameStart + k) = .ok (s.byteAt (s.frameStart + k)) :=
    s.readByte_of_lt _ (by rw [State.frameStart]; omega)
  have htag' : headerTags[k]? = some tag := htag
  simp only [workUnit, hpos, headerUnit, htag', headerFieldUnit, hread, outcomeOf]
  exact congrArg Host.Outcome.next (State.emit_of_free _ _ hfree)

theorem subUnit_eq (s : State) :
    subUnit s = .ok (
      if s.payloadStart + 1 < s.regs.len.toNat then
        ((s.setRegs { s.regs with
          sub := s.byteAt (s.payloadStart + 1), status := setFlag s.regs.status .subValid }).goto
            (.header .dispatch)).emit
          [fieldEvent (s.payloadStart + 1) 1 .baosSub ((s.byteAt (s.payloadStart + 1)).setWidth 16)]
      else (s.raise .truncated).goto (.header .leave)) := by
  by_cases hlen : s.payloadStart + 1 < s.regs.len.toNat
  · simp only [subUnit, (s.fits_iff _ 1).2 hlen, s.readByte_of_lt _ hlen, hlen, if_true]
  · simp only [subUnit, mt (s.fits_iff _ 1).1 hlen, hlen, Bool.false_eq_true, if_false]

/-- Settles O16: the guarded read (`subUnit_eq`), the dispatch and the moves around them, on an empty event port. -/
theorem subServiceReadAndDispatched : Obligations.SubServiceReadAndDispatched := by
  refine ⟨fun s hpos => by simp only [workUnit, hpos]; rfl, fun s hpos hfree => ?_, fun s hpos hfree => ?_,
    fun s hpos => by simp only [workUnit, hpos]; rfl⟩
  · intro a
    simp only [workUnit, hpos, headerUnit, subUnit_eq, outcomeOf]
    by_cases hlen : s.payloadStart + 1 < s.regs.len.toNat
    · rw [if_pos hlen, if_pos (show a < s.regs.len.toNat from hlen)]
      exact congrArg Host.Outcome.next (State.emit_of_free _ _ hfree)
    · rw [if_neg hlen, if_neg (show ¬ a < s.regs.len.toNat from hlen), State.raise_truncated_of_empty s hfree.2]
      rfl
  · simp only [workUnit, hpos, headerUnit, outcomeOf, dispatchUnit]
    by_cases hkind : (dispatch s.regs.sub).kind = .none
    · rw [if_pos hkind, if_pos hkind]
      exact congrArg Host.Outcome.next (State.raise_unknown_of_empty _ hfree.2)
    · rw [if_neg hkind, if_neg hkind]
      rfl

/-- Of the 18 sub-services 0x07 and 0x87 have a start index (R170). -/
theorem listHeaderTag_dispatch (i : Instr) : listHeaderTag (dispatch i.code).idxhdr =
    if i ∈ [.getParameterByteReq, .getParameterByteRes] then .startIndex else .startId := by
  cases i <;> rfl

/-- Settles O17: the two units of the list header (`listHeaderUnit_eq`, `countUnit_eq`) where their words fit. -/
theorem listHeaderFields : Obligations.ListHeaderFields := by
  intro i s hfree a v n
  refine ⟨fun hpos hlen => ?_, fun hpos hlen => ?_⟩
  · rw [exec_at i s _ hpos, bodyAt, listHeaderUnit_eq, ← listHeaderTag_dispatch]
    exact congrArg Host.Outcome.next ((if_pos hlen).trans (State.emit_of_free _ _ hfree))
  · rw [exec_at i s _ hpos, bodyAt, countUnit_eq]
    exact congrArg Host.Outcome.next ((if_pos hlen).trans (State.emit_of_free _ _ hfree))

/-- Settles O18: the same units where their words do not fit. -/
theorem listHeaderTruncated : Obligations.ListHeaderTruncated := by
  intro i s hfree h
  obtain ⟨hpos, hlen⟩ | ⟨hpos, hlen⟩ := h
  · rw [exec_at i s _ hpos, bodyAt, listHeaderUnit_eq]
    exact congrArg Host.Outcome.next ((if_neg (Nat.not_le.2 hlen)).trans (s.truncateBody_of_free hfree))
  · rw [exec_at i s _ hpos, bodyAt, countUnit_eq]
    exact congrArg Host.Outcome.next ((if_neg (Nat.not_le.2 hlen)).trans (s.truncateBody_of_free hfree))

/-- Settles O19: the body's last position leads to the trailer, and where SUB decodes to nothing so does the payload
phase's unit (`payloadUnit_eq`). -/
theorem bodyLeadsToTrailer : Obligations.BodyLeadsToTrailer := by
  refine ⟨fun i s hpos => by rw [exec_at i s _ hpos]; rfl, fun s p hpos hnone => ?_⟩
  simp only [workUnit, hpos, payloadUnit_eq]
  cases hsub : decodeSub s.regs.sub with
  | ok i => exact absurd (eq_code_of_decodeSub hsub).symm (hnone i)
  | error e => rfl

theorem selectionOf_recordRequest (count : Word) :
    ∀ i ∈ recordRequests, selectionOf (dispatch i.code) count = .records := by
  simp [recordRequests, selectionOf, dispatch, decodeSub, Instr.code, kindTable]

/-- An answer with records takes the error code exactly where COUNT = 0 (R203). -/
theorem selectionOf_recordAnswer (count : Word) :
    ∀ i ∈ recordAnswers, selectionOf (dispatch i.code) count = if count = 0 then .errorCode else .records := by
  simp [recordAnswers, selectionOf, dispatch, decodeSub, Instr.code, kindTable]

/-- Settles O22: the selection of `selectionOf` (`selectUnit_eq`): the record loop, or for an answer with COUNT = 0 the error
code's work at P+6 (`errorCodeWork_selected`). -/
theorem recordListSelection : Obligations.RecordListSelection := by
  intro i s hpos hfree a g
  refine ⟨fun hmem => ?_, fun hmem => ?_⟩
  · rw [exec_at i s _ hpos, bodyAt, selectUnit_eq, selectionOf_recordRequest _ i hmem]
    rfl
  · rw [exec_at i s _ hpos, bodyAt, selectUnit_eq, selectionOf_recordAnswer _ i hmem]
    by_cases hcount : s.regs.count = 0
    · rw [if_pos hcount, if_neg (not_not.2 hcount)]
      exact congrArg outcomeOf (errorCodeWork_selected s hfree)
    · rw [if_neg hcount, if_pos hcount]
      rfl

end Sys2Proof.Machine
end

section
/-!
SUPPORT. One step by what stands in its way (45_orchestration.md R261, R267, R279), and the one fault a step can answer
(20_memory.md R62).
-/

namespace Sys2Proof.Machine

variable {s : State}

/-- A transaction whose way is clear does one unit of work in a step. -/
theorem step_of_clear (hbusy : s.pos.busy = true) (hfree : s.free) (hclear : s.clear) :
    step s = mapNext State.elapse (workUnit s) := by
  obtain ⟨hvalid, hburst⟩ := hfree
  obtain ⟨⟨hrst, hstore⟩, hwait⟩ := hclear
  rw [step, State.hostStore_of_none s hstore, cycle_of_busy s hbusy]
  simp only [busyCycle, hrst, hvalid, hwait, hburst, List.isEmpty_nil, Bool.false_eq_true, if_false, if_true]

/-- Settles O32: `step_of_clear`. -/
theorem stepDoesPhaseWork : Obligations.StepDoesPhaseWork := fun _ hbusy hfree hclear =>
  step_of_clear hbusy hfree hclear

/-- Settles O33: the unit of a clear step (`step_of_clear`) is in PAYLOAD_DECODED the decoded instruction's meaning
(`payloadUnit_eq`). -/
theorem stepRunsDecodedInstruction : Obligations.StepRunsDecodedInstruction := by
  intro s p i hpos hdecode hfree hclear
  have hsub : decodeSub s.regs.sub = .ok i := by
    cases h : decodeSub s.regs.sub with
    | ok j => simp only [decode, h, Except.ok.injEq, Prod.mk.injEq, and_true] at hdecode; rw [hdecode]
    | error e => simp only [decode, h, reduceCtorEq] at hdecode
  rw [step_of_clear (by rw [hpos]; rfl) hfree hclear]
  simp only [workUnit, hpos, payloadUnit_eq, hsub]

/-- A pending event is accepted where the sink is ready, whether a transaction runs or not. -/
theorem cycle_of_ready (hrst : s.pins.rst = false) (hvalid : s.pend.valid = true) (hready : s.pins.evReady = true) :
    cycle s = .next s.accept := by
  cases hbusy : s.pos.busy with
  | true => simp only [cycle_of_busy s hbusy, busyCycle, hrst, hvalid, hready, Bool.false_eq_true, if_true, if_false]
  | false => simp only [cycle, hbusy, hrst, hvalid, hready, Bool.false_eq_true, if_true, if_false]

/-- Settles O34: the cycle accepts (`cycle_of_ready`), and the host's side of the step touches neither event port nor
registers. -/
theorem sinkAcceptsEvent : Obligations.SinkAcceptsEvent := by
  intro s hrst hvalid hready
  have hcycle : cycle s.hostStore = .next s.hostStore.accept := cycle_of_ready (by rwa [State.hostStore_pins])
    (by rwa [State.hostStore_pend]) (by rwa [State.hostStore_pins])
  refine ⟨_, (step_next s _).2 ⟨_, hcycle, rfl⟩, ?sink, ?pend, ?burst, ?regs, ?pos⟩
  case sink => rw [State.elapse_sink, State.accept_sink, State.hostStore_sink, State.hostStore_pend]
  case pend => rw [State.elapse_pend, State.accept_pend, State.hostStore_pend]
  case burst => rw [State.elapse_burst, State.accept_burst, State.hostStore_burst]
  case regs => rw [State.elapse_regs, State.accept_regs, State.hostStore_regs]
  case pos => rw [State.elapse_pos, State.accept_pos, State.hostStore_pos]

/-- A result that stops for nothing but a read beyond LEN (R62). -/
def OnlyReadsStop {α : Type} (r : Except Fault α) : Prop := r ≠ .error .outsidePayload

theorem onlyReadsStop_of_answers {r : Except Fault State} (h : ∃ t, r = .ok t) : OnlyReadsStop r := by
  obtain ⟨t, rfl⟩ := h
  exact nofun

/-- A read's stop, passed on as the stop of what reads. -/
theorem OnlyReadsStop.passed {α β : Type} {r : Except Fault α} (h : OnlyReadsStop r) {e : Fault} (heq : r = .error e) :
    OnlyReadsStop (.error e : Except Fault β) :=
  fun hstop => h (heq.trans (congrArg Except.error (Except.error.inj hstop)))

theorem readByte_onlyReadsStop (s : State) (a : Nat) : OnlyReadsStop (s.readByte a) := by
  unfold State.readByte OnlyReadsStop
  split <;> exact nofun

theorem memReadFrom_onlyReadsStop (s : State) (n a : Nat) (v : Word) : OnlyReadsStop (s.memReadFrom a n v) := by
  induction n generalizing a v with
  | zero => exact nofun
  | succ n ih =>
    have hbyte := readByte_onlyReadsStop s a
    simp only [State.memReadFrom]
    cases h : s.readByte a with
    | ok b => exact ih _ _
    | error e => exact hbyte.passed h

theorem memRead_onlyReadsStop (s : State) (a n : Nat) : OnlyReadsStop (s.memRead a n) :=
  memReadFrom_onlyReadsStop s n a 0

theorem sumFrom_onlyReadsStop (s : State) (n a : Nat) (acc : Byte) : OnlyReadsStop (s.sumFrom a n acc) := by
  induction n generalizing a acc with
  | zero => exact nofun
  | succ n ih =>
    have hbyte := readByte_onlyReadsStop s a
    simp only [State.sumFrom]
    cases h : s.readByte a with
    | ok b => exact ih _ _
    | error e => exact hbyte.passed h

theorem headerUnit_onlyReadsStop (p : HeaderPos) (s : State) : OnlyReadsStop (headerUnit p s) := by
  cases p with
  | field k =>
    cases htag : headerTags[k]? with
    | none => simp only [headerUnit, htag]; exact nofun
    | some tag =>
      have hread := readByte_onlyReadsStop s (s.frameStart + k)
      simp only [headerUnit, htag, headerFieldUnit]
      cases h : s.readByte (s.frameStart + k) with
      | ok b => exact nofun
      | error e => exact hread.passed h
  | sub => exact onlyReadsStop_of_answers ⟨_, subUnit_eq s⟩
  | dispatch | leave => exact nofun

theorem variableLength_onlyReadsStop (sh : Shape) (s : State) : OnlyReadsStop (variableLength sh s) := by
  unfold variableLength
  cases sh.lenField with
  | none => exact nofun
  | some field =>
    have hread := memRead_onlyReadsStop s (s.regs.cur.toNat + field.1) field.2
    dsimp only
    cases h : s.memRead (s.regs.cur.toNat + field.1) field.2 with
    | ok v => exact nofun
    | error e => exact hread.passed h

theorem viewUnit_onlyReadsStop (sh : Shape) (n : Nat) (s : State) : OnlyReadsStop (viewUnit sh n s) := by
  have hid := memRead_onlyReadsStop s s.regs.cur.toNat 2
  have hvalue := memRead_onlyReadsStop s (s.regs.cur.toNat + sh.size) n
  simp only [viewUnit]
  cases sh.typed with
  | false => exact nofun
  | true =>
    simp only [if_true]
    cases h : s.memRead s.regs.cur.toNat 2 with
    | error e => exact hid.passed h
    | ok id =>
      dsimp only
      cases appliedView s.params.siType id.toNat n with
      | none => exact nofun
      | some v =>
        dsimp only
        cases h' : s.memRead (s.regs.cur.toNat + sh.size) n with
        | ok w => exact nofun
        | error e => exact hvalue.passed h'

theorem recordLoopUnit_onlyReadsStop (sh : Shape) (p : BodyPos) (s : State) : OnlyReadsStop (recordLoopUnit sh p s) := by
  cases p with
  | record | advance | listHeader | countField | select | leave => exact nofun
  | lead k =>
    cases hfield : sh.lead[k]? with
    | none => simp only [recordLoopUnit, hfield]; exact nofun
    | some f =>
      have hread := memRead_onlyReadsStop s (s.regs.cur.toNat + f.off) f.width
      simp only [recordLoopUnit, hfield, leadFieldUnit]
      cases h : s.memRead (s.regs.cur.toNat + f.off) f.width with
      | ok v => exact nofun
      | error e => exact hread.passed h
  | varPart =>
    have hlength := variableLength_onlyReadsStop sh s
    simp only [recordLoopUnit, variableUnit]
    cases h : variableLength sh s with
    | ok n => dsimp only; split <;> exact nofun
    | error e => exact hlength.passed h
  | view n => exact viewUnit_onlyReadsStop sh n s

theorem bodyAt_onlyReadsStop (m : MuxOut) (p : BodyPos) (s : State) : OnlyReadsStop (bodyAt m p s) := by
  cases hloop : p.inRecordLoop with
  | true =>
    rw [bodyAt_loop_eq s hloop]
    cases shapeOf s.params m.kind with
    | none => exact nofun
    | some sh => exact recordLoopUnit_onlyReadsStop sh p s
  | false =>
    cases p with
    | record | lead | varPart | view | advance => cases hloop
    | listHeader => exact onlyReadsStop_of_answers ⟨_, listHeaderUnit_eq m s⟩
    | countField => exact onlyReadsStop_of_answers ⟨_, countUnit_eq s⟩
    | select => exact onlyReadsStop_of_answers (selectUnit_answers m s)
    | leave => exact nofun

theorem trailerUnit_onlyReadsStop (p : TrailerPos) (s : State) : OnlyReadsStop (trailerUnit p s) := by
  cases p with
  | declared => exact onlyReadsStop_of_answers (declaredUnit_answers s)
  | endMark => exact onlyReadsStop_of_answers (endMarkUnit_answers s)
  | leave => exact nofun
  | compare =>
    have hsum := sumFrom_onlyReadsStop s (s.trailerOffset - (s.frameStart + 4)) (s.frameStart + 4) 0
    rw [← State.checksum] at hsum
    simp only [trailerUnit, compareUnit]
    cases h : s.checksum (s.frameStart + 4) s.trailerOffset with
    | ok c => exact nofun
    | error e => exact hsum.passed h

theorem outcomeOf_ne {r : Except Fault State} (h : OnlyReadsStop r) : outcomeOf r ≠ .fault .outsidePayload := by
  cases r with
  | ok t => exact nofun
  | error e => exact fun heq => h (congrArg Except.error (Host.Outcome.fault.inj heq))

/-- A unit's meaning is called in the payload phase alone, so no unit answers the fault `outsidePayload`. -/
theorem workUnit_ne_outsidePayload (s : State) : workUnit s ≠ .fault .outsidePayload := by
  cases hpos : s.pos with
  | idle | foundFrame | done => simp only [workUnit, hpos]; exact nofun
  | scanning => simp only [workUnit, hpos]; exact outcomeOf_ne (onlyReadsStop_of_answers (scanUnit_answers s))
  | header p => simp only [workUnit, hpos]; exact outcomeOf_ne (headerUnit_onlyReadsStop p s)
  | trailer p => simp only [workUnit, hpos]; exact outcomeOf_ne (trailerUnit_onlyReadsStop p s)
  | payload p =>
    simp only [workUnit, hpos, payloadUnit_eq]
    cases decodeSub s.regs.sub with
    | error e => exact nofun
    | ok i =>
      dsimp only
      rw [exec_at i s p hpos]
      exact outcomeOf_ne (bodyAt_onlyReadsStop _ p s)

/-- Settles O31: outside the payload phase a meaning stops by definition; a step stops only where its cycle's unit of work
does, and that unit calls a meaning in the payload phase alone (`workUnit_ne_outsidePayload`). -/
theorem bodyOutsidePayloadStops : Obligations.BodyOutsidePayloadStops := by
  refine ⟨fun i s hphase => ?_, fun s hstep => ?_⟩
  · rw [exec_eq, bodyUnit]
    cases hpos : s.pos with
    | payload p => rw [hpos] at hphase; exact absurd rfl hphase
    | idle | scanning | foundFrame | header | trailer | done => rfl
  · have hcycle : cycle s.hostStore = .fault .outsidePayload := by
      rw [step] at hstep
      cases h : cycle s.hostStore with
      | next t => rw [h] at hstep; cases hstep
      | refused r => rw [h] at hstep; cases hstep
      | fault e => rw [h] at hstep; exact congrArg Host.Outcome.fault (Host.Outcome.fault.inj hstep)
    unfold cycle busyCycle at hcycle
    split_ifs at hcycle
    exact workUnit_ne_outsidePayload _ hcycle

end Sys2Proof.Machine
end

section
/-!
SUPPORT. DECODE in the stages of a transaction (45_orchestration.md R276): the locator's answer, the frame and its
header fields, the telegram, the trailer. `decodeTransaction_eq` ties the stages to DECODE; the lemmas after it say what
each stage leaves and appends.
-/

namespace Sys2Proof.Machine

/-! ### The stages -/

/-- The registers that START leaves (R262). -/
def startRegs (n : Word) : Regs := { Regs.reset with len := n, status := statusAtStart }

/-- The registers once candidate `s` is accepted (41_locator.md R137). -/
def acceptedAt (b : Nat → Byte) (s : Nat) (g : Regs) : Regs :=
  { g with
    startOff := BitVec.ofNat 3 s, dlen := b (s + 1), ctrl := b (s + 4), status := setFlag g.status .recognized }

/-- T = s + 5 + DLEN, from the registers (42_integrity.md R150). -/
def Regs.declaredEnd (g : Regs) : Nat := g.startOff.toNat + 5 + g.dlen.toNat

/-- The end marker stands at T + 1 inside the buffer (R151). -/
def endMarkerIn (b : Nat → Byte) (len t : Nat) : Bool := fitsIn len (t + 1) 1 && b (t + 1) == Config.ftEnd

/-- FOUND_FRAME (R150-R152). -/
def verifyPart (b : Nat → Byte) (d : Decoded) : Decoded :=
  let t := d.regs.declaredEnd
  if endMarkerIn b d.regs.len.toNat t then
    d.setRegs { d.regs with toff := BitVec.ofNat 16 t, status := setFlag d.regs.status .complete }
  else
    (d.setRegs { d.regs with toff := BitVec.ofNat 16 t }).emit
      [diagEvent .warning .frameIncomplete (BitVec.ofNat 16 (t + 1)) 0]

/-- The telegram at the payload start that START_OFF gives. -/
def telegramOf (conf : Params) (b : Nat → Byte) (d : Decoded) : Decoded :=
  telegramPart conf b d.regs.len.toNat (d.regs.startOff.toNat + 5) d

/-- The trailer at the offset that TOFF gives, and the end of the transaction. -/
def trailerOf (b : Nat → Byte) (d : Decoded) : Decoded :=
  finishPart (trailerPart b d.regs.len.toNat d.regs.startOff.toNat d.regs.toff.toNat d)

/-- What follows the locator's answer. -/
def locatedPart (conf : Params) (b : Nat → Byte) (d : Decoded) : Option Nat × Regs → Decoded
  | (none, g) => finishPart (d.setRegs g)
  | (some s, g) =>
    trailerOf b (telegramOf conf b ((verifyPart b (d.setRegs (acceptedAt b s g))).emit (headerEvents b s)))

/-! ### Bodies: what they leave and append -/

/-- From `d` to `d'` a body has run: its registers alone have changed, and it has appended FIELD events inside the
buffer (44_record_streams.md R200). -/
structure BodyRuns (d d' : Decoded) : Prop where
  keeps : BodyKeeps d.regs d'.regs
  events : ∃ es, d'.events = d.events ++ es ∧ ∀ w ∈ es, PlainField d.regs.len.toNat w

theorem BodyRuns.refl (d : Decoded) : BodyRuns d d :=
  ⟨.refl _, [], (List.append_nil _).symm, List.forall_mem_nil _⟩

theorem BodyRuns.trans {d e f : Decoded} (h : BodyRuns d e) (h' : BodyRuns e f) : BodyRuns d f := by
  obtain ⟨hkeeps, es, hes, hplain⟩ := h
  obtain ⟨hkeeps', fs, hfs, hplain'⟩ := h'
  refine ⟨hkeeps.trans hkeeps', es ++ fs, by rw [hfs, hes, List.append_assoc], fun w hw => ?_⟩
  obtain hw | hw := List.mem_append.1 hw
  · exact hplain w hw
  · rw [← hkeeps.len]; exact hplain' w hw

theorem bodyRuns_setRegs (d : Decoded) {g : Regs} (h : BodyKeeps d.regs g) : BodyRuns d (d.setRegs g) :=
  ⟨h, [], (List.append_nil _).symm, List.forall_mem_nil _⟩

theorem bodyRuns_truncated (d : Decoded) : BodyRuns d (d.setStatus .trunc) :=
  bodyRuns_setRegs d (bodyKeeps_truncated d.regs)

theorem bodyRuns_emit (d : Decoded) {es : List Wires} (h : ∀ w ∈ es, PlainField d.regs.len.toNat w) :
    BodyRuns d (d.emit es) :=
  ⟨.refl _, es, rfl, h⟩

theorem bodyRuns_emit_one (d : Decoded) {off n : Nat} {tag : Tag} (v : Word) (h : off + n ≤ d.regs.len.toNat)
    (htag : tag ≠ .ftChecksum) : BodyRuns d (d.emit [fieldEvent off n tag v]) :=
  bodyRuns_emit d (List.forall_mem_singleton.2 (plainField_fieldEvent v h htag))

theorem fitsIn_iff (len a n : Nat) : fitsIn len a n = true ↔ a + n ≤ len := decide_eq_true_iff

/-- A leading part that fits appends the events of its fields (R207, R250). -/
theorem plainField_leadPart {c : Params} {k : Kind} {sh : Shape} (hshape : shapeOf c k = some sh) (b : Nat → Byte)
    {len a : Nat} (h : a + sh.size ≤ len) : ∀ w ∈ leadPart b sh a, PlainField len w := by
  intro w hw
  obtain ⟨f, hf, hw⟩ := List.mem_flatMap.1 hw
  obtain ⟨hlead, _⟩ := shapeOf_fields _ _ _ hshape
  have hsize := (hlead f hf).1
  exact plainField_leadEvents hshape hf _ (by omega) w hw

/-- One whole record: its leading part, its variable part with the typed view, the advance (R206-R209). -/
def recordRead (b : Nat → Byte) (table : List (Nat × ViewType)) (sh : Shape) (d : Decoded) : Decoded :=
  let c := d.regs.cur.toNat
  let m := lengthAt b sh c
  { regs := d.regs.advanced (sh.size + m)
    events := d.events ++ (leadPart b sh c ++ variableEvents sh c m ++ viewPart b table sh c m) }

/-- The loop's next record, or the guard that ends it (R207, R208). -/
theorem recordLoop_succ (b : Nat → Byte) (table : List (Nat × ViewType)) (len : Nat) (sh : Shape) (n : Nat)
    (d : Decoded) : recordLoop b table len sh (n + 1) d =
      if fitsIn len d.regs.cur.toNat sh.size then
        if fitsIn len (d.regs.cur.toNat + sh.size) (lengthAt b sh d.regs.cur.toNat) then
          recordLoop b table len sh n (recordRead b table sh d)
        else (d.emit (leadPart b sh d.regs.cur.toNat)).setStatus .trunc
      else d.setStatus .trunc := by
  simp only [recordLoop, recordRead, Decoded.emit, Decoded.setRegs, Regs.advanced, List.append_assoc, Nat.add_assoc]

theorem recordRead_runs {c : Params} {k : Kind} {sh : Shape} (hshape : shapeOf c k = some sh) (b : Nat → Byte)
    (table : List (Nat × ViewType)) (d : Decoded)
    (h : d.regs.cur.toNat + sh.size + lengthAt b sh d.regs.cur.toNat ≤ d.regs.len.toNat) :
    BodyRuns d (recordRead b table sh d) := by
  refine ⟨bodyKeeps_of rfl (.inl rfl), _, rfl, fun w hw => ?_⟩
  obtain hw | hw := List.mem_append.1 hw
  · obtain hw | hw := List.mem_append.1 hw
    · exact plainField_leadPart hshape b (by omega) w hw
    · exact plainField_variableEvents hshape h w hw
  · exact plainField_viewPart b table sh (.inr h) w hw

theorem recordLoop_runs {c : Params} {k : Kind} {sh : Shape} (hshape : shapeOf c k = some sh) (b : Nat → Byte)
    (table : List (Nat × ViewType)) (n : Nat) (d : Decoded) :
    BodyRuns d (recordLoop b table d.regs.len.toNat sh n d) := by
  induction n generalizing d with
  | zero => exact .refl d
  | succ n ih =>
    rw [recordLoop_succ]
    split
    next hfits =>
      split
      next hdata => exact (recordRead_runs hshape b table d ((fitsIn_iff _ _ _).1 hdata)).trans (ih _)
      next =>
        exact (bodyRuns_emit d (plainField_leadPart hshape b ((fitsIn_iff _ _ _).1 hfits))).trans (bodyRuns_truncated _)
    next => exact bodyRuns_truncated d

theorem errorCodePart_runs (b : Nat → Byte) (d : Decoded) : BodyRuns d (errorCodePart b d.regs.len.toNat d) := by
  simp only [errorCodePart]
  split
  next hfits =>
    exact (bodyRuns_setRegs d (bodyKeeps_of rfl (.inr ⟨.errcodeValid, by decide, rfl⟩))).trans
      (bodyRuns_emit_one _ _ ((fitsIn_iff _ _ _).1 hfits) (by decide))
  next => exact bodyRuns_truncated d

theorem filterPart_runs (b : Nat → Byte) (d : Decoded) : BodyRuns d (filterPart b d.regs.len.toNat d) := by
  simp only [filterPart]
  split
  next hfits => exact bodyRuns_emit_one d _ ((fitsIn_iff _ _ _).1 hfits) (by decide)
  next => exact bodyRuns_truncated d

/-- The record loop of the kind that the mux selects; a kind without records has none. -/
def recordsPart (conf : Params) (b : Nat → Byte) (len : Nat) (m : MuxOut) (n : Nat) (d : Decoded) : Decoded :=
  match shapeOf conf m.kind with
  | some sh => recordLoop b conf.siType len sh n d
  | none => d

/-- DECODE's selection is the machine's (R204). -/
theorem selectPart_eq (conf : Params) (b : Nat → Byte) (len : Nat) (m : MuxOut) (d : Decoded) :
    selectPart conf b len m d = match selectionOf m d.regs.count with
      | .nothing => d
      | .errorCode => errorCodePart b len d
      | .filter => filterPart b len d
      | .records => recordsPart conf b len m d.regs.count.toNat d := by
  cases hkind : m.kind with
  | none | hdrReq | hdrFilter => simp only [selectPart, selectionOf, hkind]
  | hdrRes =>
    simp only [selectPart, selectionOf, hkind]
    split <;> rfl
  | serverItems | dpValueCmd | dpValueState | dpDescriptor | descString | paramByte =>
    simp only [selectPart, selectionOf, recordsPart, hkind]
    cases (m.zc && d.regs.count == 0) <;> rfl

theorem recordsPart_runs (conf : Params) (b : Nat → Byte) (m : MuxOut) (n : Nat) (d : Decoded) :
    BodyRuns d (recordsPart conf b d.regs.len.toNat m n d) := by
  unfold recordsPart
  split
  next hshape => exact recordLoop_runs hshape b _ n d
  next => exact .refl d

theorem selectPart_runs (conf : Params) (b : Nat → Byte) (m : MuxOut) (d : Decoded) :
    BodyRuns d (selectPart conf b d.regs.len.toNat m d) := by
  rw [selectPart_eq]
  cases selectionOf m d.regs.count with
  | nothing => exact .refl d
  | errorCode => exact errorCodePart_runs b d
  | filter => exact filterPart_runs b d
  | records => exact recordsPart_runs conf b m _ d

/-! The body in three pieces, one per position before the records. -/

/-- The selection, with `CUR <- P+6; IDX <- 0` (R202, R204). -/
def selectOf (conf : Params) (b : Nat → Byte) (m : MuxOut) (d : Decoded) : Decoded :=
  selectPart conf b d.regs.len.toNat m (d.setRegs d.regs.selected)

/-- START_ID read at P+2 (R201). -/
def startIdRead (b : Nat → Byte) (m : MuxOut) (d : Decoded) : Decoded :=
  let v := beWord b (d.regs.startOff.toNat + 7)
  { regs := { d.regs with startId := v, status := setFlag d.regs.status .startIdValid }
    events := d.events ++ [fieldEvent (d.regs.startOff.toNat + 7) 2 (listHeaderTag m.idxhdr) v] }

/-- COUNT read at P+4 (R202). -/
def countRead (b : Nat → Byte) (d : Decoded) : Decoded :=
  let v := beWord b (d.regs.startOff.toNat + 9)
  { regs := { d.regs with count := v, status := setFlag d.regs.status .countValid }
    events := d.events ++ [fieldEvent (d.regs.startOff.toNat + 9) 2 .count v] }

/-- The count and what follows it (R202). -/
def countOf (conf : Params) (b : Nat → Byte) (m : MuxOut) (d : Decoded) : Decoded :=
  if fitsIn d.regs.len.toNat (d.regs.startOff.toNat + 9) 2 then selectOf conf b m (countRead b d)
  else d.setStatus .trunc

/-- The body, at the payload start that START_OFF gives (R201). -/
def bodyOf (conf : Params) (b : Nat → Byte) (m : MuxOut) (d : Decoded) : Decoded :=
  if fitsIn d.regs.len.toNat (d.regs.startOff.toNat + 7) 2 then countOf conf b m (startIdRead b m d)
  else d.setStatus .trunc

theorem bodyPart_eq (conf : Params) (b : Nat → Byte) (m : MuxOut) (d : Decoded) :
    bodyPart conf b d.regs.len.toNat (d.regs.startOff.toNat + 5) m d = bodyOf conf b m d := rfl

theorem startIdRead_runs (b : Nat → Byte) (m : MuxOut) (d : Decoded)
    (h : d.regs.startOff.toNat + 9 ≤ d.regs.len.toNat) : BodyRuns d (startIdRead b m d) :=
  ⟨bodyKeeps_of rfl (.inr ⟨.startIdValid, by decide, rfl⟩), _, rfl,
    List.forall_mem_singleton.2 (plainField_fieldEvent _ h (listHeaderTag_ne _))⟩

theorem countRead_runs (b : Nat → Byte) (d : Decoded) (h : d.regs.startOff.toNat + 11 ≤ d.regs.len.toNat) :
    BodyRuns d (countRead b d) :=
  ⟨bodyKeeps_of rfl (.inr ⟨.countValid, by decide, rfl⟩), _, rfl,
    List.forall_mem_singleton.2 (plainField_fieldEvent _ h (by decide))⟩

theorem selectOf_runs (conf : Params) (b : Nat → Byte) (m : MuxOut) (d : Decoded) : BodyRuns d (selectOf conf b m d) := by
  have hselected : BodyRuns d (d.setRegs d.regs.selected) := bodyRuns_setRegs d (bodyKeeps_of rfl (.inl rfl))
  exact hselected.trans (selectPart_runs conf b m (d.setRegs d.regs.selected))

theorem countOf_runs (conf : Params) (b : Nat → Byte) (m : MuxOut) (d : Decoded) : BodyRuns d (countOf conf b m d) := by
  unfold countOf
  split
  next hfits => exact (countRead_runs b d ((fitsIn_iff _ _ _).1 hfits)).trans (selectOf_runs conf b m _)
  next => exact bodyRuns_truncated d

theorem bodyOf_runs (conf : Params) (b : Nat → Byte) (m : MuxOut) (d : Decoded) : BodyRuns d (bodyOf conf b m d) := by
  unfold bodyOf
  split
  next hfits => exact (startIdRead_runs b m d ((fitsIn_iff _ _ _).1 hfits)).trans (countOf_runs conf b m _)
  next => exact bodyRuns_truncated d

/-! ### The telegram -/

/-- The dispatch and the body it selects (43_dispatch.md R170, R172). -/
def dispatchOf (conf : Params) (b : Nat → Byte) (d : Decoded) : Decoded :=
  let m := dispatch d.regs.sub
  let d1 := d.setRegs { d.regs with kind := m.kind.code }
  if m.kind = .none then d1.setStatus .unknownSub else bodyOf conf b m d1

/-- The registers and events once SUB has been read (R192). -/
def subRead (b : Nat → Byte) (d : Decoded) : Decoded :=
  let a := d.regs.startOff.toNat + 6
  (d.setRegs { d.regs with sub := b a, status := setFlag d.regs.status .subValid }).emit
    [fieldEvent a 1 .baosSub ((b a).setWidth 16)]

theorem telegramOf_eq (conf : Params) (b : Nat → Byte) (d : Decoded) :
    telegramOf conf b d =
      if fitsIn d.regs.len.toNat (d.regs.startOff.toNat + 6) 1 then dispatchOf conf b (subRead b d)
      else d.setStatus .trunc := by
  simp only [telegramOf, telegramPart, dispatchOf, subRead, ← bodyPart_eq]
  rfl

/-- The STATUS bits that the telegram can set. -/
def telegramBits : List StatusBit := [.subValid, .unknownSub, .startIdValid, .countValid, .errcodeValid, .trunc]

/-- What the telegram leaves alone: everything of the frame and of the trailer; and it appends FIELD events inside the
buffer, none of them the declared checksum's. -/
structure TelegramRuns (d d' : Decoded) : Prop where
  len : d'.regs.len = d.regs.len
  startOff : d'.regs.startOff = d.regs.startOff
  dlen : d'.regs.dlen = d.regs.dlen
  ctrl : d'.regs.ctrl = d.regs.ctrl
  toff : d'.regs.toff = d.regs.toff
  csumDecl : d'.regs.csumDecl = d.regs.csumDecl
  csumCalc : d'.regs.csumCalc = d.regs.csumCalc
  flag : ∀ f, f ∉ telegramBits → getFlag d'.regs.status f = getFlag d.regs.status f
  events : ∃ es, d'.events = d.events ++ es ∧ ∀ w ∈ es, PlainField d.regs.len.toNat w

theorem BodyRuns.telegram {d d' : Decoded} (h : BodyRuns d d') : TelegramRuns d d' :=
  ⟨h.keeps.len, h.keeps.startOff, h.keeps.dlen, h.keeps.ctrl, h.keeps.toff, h.keeps.csumDecl, h.keeps.csumCalc,
    fun f hf => h.keeps.flag f fun hmem => hf (List.mem_cons_of_mem _ (List.mem_cons_of_mem _ hmem)), h.events⟩

theorem TelegramRuns.trans {d e f : Decoded} (h : TelegramRuns d e) (h' : TelegramRuns e f) : TelegramRuns d f := by
  obtain ⟨es, hes, hplain⟩ := h.events
  obtain ⟨fs, hfs, hplain'⟩ := h'.events
  refine ⟨h'.len.trans h.len, h'.startOff.trans h.startOff, h'.dlen.trans h.dlen, h'.ctrl.trans h.ctrl,
    h'.toff.trans h.toff, h'.csumDecl.trans h.csumDecl, h'.csumCalc.trans h.csumCalc,
    fun f hf => (h'.flag f hf).trans (h.flag f hf), es ++ fs, by rw [hfs, hes, List.append_assoc], fun w hw => ?_⟩
  obtain hw | hw := List.mem_append.1 hw
  · exact hplain w hw
  · rw [← h.len]; exact hplain' w hw

theorem dispatchOf_runs (conf : Params) (b : Nat → Byte) (d : Decoded) : TelegramRuns d (dispatchOf conf b d) := by
  have hkind : TelegramRuns d (d.setRegs { d.regs with kind := (dispatch d.regs.sub).kind.code }) :=
    ⟨rfl, rfl, rfl, rfl, rfl, rfl, rfl, fun _ _ => rfl, [], (List.append_nil _).symm, List.forall_mem_nil _⟩
  simp only [dispatchOf]
  split
  · refine hkind.trans ⟨rfl, rfl, rfl, rfl, rfl, rfl, rfl, fun f hf => ?_, [], (List.append_nil _).symm,
      List.forall_mem_nil _⟩
    exact getFlag_setFlag_other _ _ f fun heq => hf (heq ▸ by decide)
  · exact hkind.trans (bodyOf_runs conf b _ _).telegram

theorem subRead_runs (b : Nat → Byte) (d : Decoded) (h : d.regs.startOff.toNat + 7 ≤ d.regs.len.toNat) :
    TelegramRuns d (subRead b d) :=
  ⟨rfl, rfl, rfl, rfl, rfl, rfl, rfl, fun f hf => getFlag_setFlag_other _ _ f fun heq => hf (heq ▸ by decide), _, rfl,
    List.forall_mem_singleton.2 (plainField_fieldEvent _ h (by decide))⟩

theorem telegramOf_runs (conf : Params) (b : Nat → Byte) (d : Decoded) : TelegramRuns d (telegramOf conf b d) := by
  rw [telegramOf_eq]
  split
  next hfits => exact (subRead_runs b d ((fitsIn_iff _ _ _).1 hfits)).trans (dispatchOf_runs conf b _)
  next => exact (bodyRuns_truncated d).telegram

/-! ### The locator -/

/-- A candidate that the loop answers is its first that passes (41_locator.md R132). -/
theorem scanFrom_some {b : Nat → Byte} {len i n s : Nat} {g : Regs} (h : (scanFrom b len i n g).1 = some s) :
    i ≤ s ∧ s < i + n ∧ passesAt b len s = true ∧ ∀ j, i ≤ j → j < s → passesAt b len j = false := by
  induction n generalizing i g with
  | zero => cases h
  | succ n ih =>
    simp only [scanFrom] at h
    split at h
    next hpass => cases h; exact ⟨le_rfl, by omega, hpass, fun j hij hj => by omega⟩
    next hpass =>
      obtain ⟨hle, hlt, hs, hfirst⟩ := ih h
      refine ⟨by omega, by omega, hs, fun j hij hj => ?_⟩
      obtain rfl | hne := eq_or_ne j i
      · exact Bool.eq_false_iff.2 hpass
      · exact hfirst j (by omega) hj

theorem scanFrom_none {b : Nat → Byte} {len i n : Nat} {g : Regs} (h : (scanFrom b len i n g).1 = none) :
    ∀ j, i ≤ j → j < i + n → passesAt b len j = false := by
  induction n generalizing i g with
  | zero => intro j hij hj; omega
  | succ n ih =>
    simp only [scanFrom] at h
    split at h
    next => cases h
    next hpass =>
      intro j hij hj
      obtain rfl | hne := eq_or_ne j i
      · exact Bool.eq_false_iff.2 hpass
      · exact ih h j (by omega) (by omega)

/-- The loop writes SCAN_I and FT_FOUND alone. -/
theorem scanFrom_regs (b : Nat → Byte) (len i n : Nat) (g : Regs) :
    ∃ k f, (scanFrom b len i n g).2 = { g with scanI := k, ftFound := f } := by
  induction n generalizing i g with
  | zero => exact ⟨_, _, rfl⟩
  | succ n ih =>
    simp only [scanFrom]
    split
    next => exact ⟨_, _, rfl⟩
    next =>
      obtain ⟨k, f, h⟩ := ih (i + 1) { g with scanI := BitVec.ofNat 3 i, ftFound := markedAt b len i }
      exact ⟨k, f, h⟩

theorem passesAt_iff (b : Nat → Byte) (len i : Nat) : passesAt b len i = true ↔
    i + 6 ≤ len ∧ b i = 0x68 ∧ b (i + 3) = 0x68 ∧ b (i + 4) ∈ [0x73, 0x53, 0xF3, 0xD3] ∧ b (i + 5) = 0xF0 := by
  simp only [passesAt, markedAt, Bool.and_eq_true, fitsIn_iff, List.contains_iff_mem, beq_iff_eq, ctrlSet,
    Config.ftStart, Config.baosMain]
  refine ⟨fun ⟨⟨⟨⟨_, h0⟩, _, h3⟩, _, h4⟩, hlen, h5⟩ => ⟨hlen, h0, h3, h4, h5⟩, fun ⟨hlen, h0, h3, h4, h5⟩ => ?_⟩
  exact ⟨⟨⟨⟨by omega, h0⟩, by omega, h3⟩, by omega, h4⟩, hlen, h5⟩

/-! ### DECODE by its stages -/

/-- An accepted frame: START_OFF is the candidate, and T is at most 264, so both hold their values (R22, R25). -/
theorem acceptedAt_startOff {s : Nat} (hs : s < 5) (b : Nat → Byte) (g : Regs) :
    (acceptedAt b s g).startOff.toNat = s := scanI_toNat hs.le

theorem Regs.declaredEnd_lt (g : Regs) : g.declaredEnd < 2 ^ 16 := by
  have hs : g.startOff.toNat < 8 := g.startOff.isLt
  have hd : g.dlen.toNat < 256 := g.dlen.isLt
  rw [Regs.declaredEnd]
  omega

theorem verifyPart_regs (b : Nat → Byte) (d : Decoded) : (verifyPart b d).regs = { d.regs with
    toff := BitVec.ofNat 16 d.regs.declaredEnd
    status := setFlagIf (endMarkerIn b d.regs.len.toNat d.regs.declaredEnd) d.regs.status .complete } := by
  simp only [verifyPart]
  cases endMarkerIn b d.regs.len.toNat d.regs.declaredEnd <;> rfl

theorem verifyPart_events (b : Nat → Byte) (d : Decoded) : (verifyPart b d).events = d.events ++
    if endMarkerIn b d.regs.len.toNat d.regs.declaredEnd then []
    else [diagEvent .warning .frameIncomplete (BitVec.ofNat 16 (d.regs.declaredEnd + 1)) 0] := by
  simp only [verifyPart]
  cases endMarkerIn b d.regs.len.toNat d.regs.declaredEnd
  · rfl
  · exact (List.append_nil _).symm

/-- The frame's T in TOFF. -/
theorem verifyPart_toff (b : Nat → Byte) (d : Decoded) : (verifyPart b d).regs.toff.toNat = d.regs.declaredEnd := by
  rw [verifyPart_regs, BitVec.toNat_ofNat, Nat.mod_eq_of_lt d.regs.declaredEnd_lt]

theorem acceptedAt_declaredEnd {s : Nat} (hs : s < 5) (b : Nat → Byte) (g : Regs) :
    (acceptedAt b s g).declaredEnd = s + 5 + (b (s + 1)).toNat := by
  rw [Regs.declaredEnd, acceptedAt_startOff hs]
  rfl

/-- FOUND_FRAME in DECODE's own words: COMPLETE and TOFF in one write, then the diagnostic. -/
theorem verifyPart_accepted {s : Nat} (hs : s < 5) (b : Nat → Byte) (g : Regs) (es : List Wires) :
    verifyPart b { regs := acceptedAt b s g, events := es } =
      let t := s + 5 + (b (s + 1)).toNat
      let d : Decoded := {
        regs := { g with
          startOff := BitVec.ofNat 3 s, dlen := b (s + 1), ctrl := b (s + 4)
          status := setFlagIf (endMarkerIn b g.len.toNat t) (setFlag g.status .recognized) .complete
          toff := BitVec.ofNat 16 t }
        events := es }
      if endMarkerIn b g.len.toNat t then d
      else d.emit [diagEvent .warning .frameIncomplete (BitVec.ofNat 16 (t + 1)) 0] := by
  simp only [verifyPart, acceptedAt_declaredEnd hs]
  change (if endMarkerIn b g.len.toNat _ then _ else _) = _
  cases endMarkerIn b g.len.toNat (s + 5 + (b (s + 1)).toNat) <;> rfl

/-- The telegram and the trailer of a frame, at the offsets that its registers hold. -/
theorem frame_stages (conf : Params) (b : Nat → Byte) {d : Decoded} {n : Word} {s t : Nat} (hlen : d.regs.len = n)
    (hs : d.regs.startOff.toNat = s) (ht : d.regs.toff.toNat = t) :
    finishPart (trailerPart b n.toNat s t (telegramPart conf b n.toNat (s + 5) d)) = trailerOf b (telegramOf conf b d) := by
  subst hlen hs ht
  have hruns := telegramOf_runs conf b d
  rw [trailerOf, hruns.len, hruns.startOff, hruns.toff, telegramOf]

/-- DECODE is its stages, one after the other. -/
theorem decodeTransaction_eq (conf : Params) (b : Nat → Byte) (n : Word) :
    decodeTransaction conf b n =
      if n.toNat < 10 then finishPart (Decoded.setStatus { regs := startRegs n, events := [] } .short)
      else locatedPart conf b { regs := startRegs n, events := [] } (scanFrom b n.toNat 0 5 (startRegs n)) := by
  by_cases hshort : n.toNat < 10
  · rw [if_pos hshort]
    exact if_pos hshort
  · rw [if_neg hshort]
    refine (if_neg hshort).trans ?_
    have hsome := @scanFrom_some b n.toNat 0 5
    obtain ⟨k, f, hregs⟩ := scanFrom_regs b n.toNat 0 5 (startRegs n)
    change (match scanFrom b n.toNat 0 5 (startRegs n) with | (none, g) => _ | (some s, g) => _) = _
    cases hscan : scanFrom b n.toNat 0 5 (startRegs n) with
    | mk r g =>
      have hlen : g.len = n := by rw [hscan] at hregs; rw [show g = _ from hregs]; rfl
      cases r with
      | none => rfl
      | some s =>
        obtain ⟨_, hs, _⟩ := hsome (congrArg Prod.fst hscan)
        have hframe := verifyPart_accepted (by omega : s < 5) b g []
        subst hlen
        have hstages := frame_stages conf b
          (d := (verifyPart b { regs := acceptedAt b s g, events := [] }).emit (headerEvents b s)) (n := g.len) (s := s)
          (t := s + 5 + (b (s + 1)).toNat) (by rw [Decoded.emit, verifyPart_regs]; rfl)
          (by rw [Decoded.emit, verifyPart_regs]; exact acceptedAt_startOff (by omega) b g)
          ((verifyPart_toff b _).trans (acceptedAt_declaredEnd (by omega) b g))
        refine Eq.trans ?_ hstages
        rw [hframe]
        refine congrArg (fun d => finishPart (trailerPart b g.len.toNat s (s + 5 + (b (s + 1)).toNat)
          (telegramPart conf b g.len.toNat (s + 5) d))) ?_
        exact congrArg (Decoded.emit · (headerEvents b s)) rfl

/-- The registers that the locator hands on. -/
def scannedRegs (n : Word) (k : BitVec 3) (f : Bool) : Regs := { startRegs n with scanI := k, ftFound := f }

/-- The frame at candidate `s`, from its acceptance to its header fields. -/
def frameOf (b : Nat → Byte) (s : Nat) (g : Regs) : Decoded :=
  (verifyPart b { regs := acceptedAt b s g, events := [] }).emit (headerEvents b s)

/-- The three outcomes of DECODE: a short buffer, no frame, a frame at the first candidate that passes. -/
theorem decodeTransaction_cases (conf : Params) (b : Nat → Byte) (n : Word) :
    (n.toNat < 10 ∧
      decodeTransaction conf b n = finishPart (Decoded.setStatus { regs := startRegs n, events := [] } .short)) ∨
    (10 ≤ n.toNat ∧ (∀ j, j < 5 → passesAt b n.toNat j = false) ∧
      ∃ k f, decodeTransaction conf b n = finishPart { regs := scannedRegs n k f, events := [] }) ∨
    ∃ s k f, 10 ≤ n.toNat ∧ s < 5 ∧ passesAt b n.toNat s = true ∧ (∀ j, j < s → passesAt b n.toNat j = false) ∧
      decodeTransaction conf b n = trailerOf b (telegramOf conf b (frameOf b s (scannedRegs n k f))) := by
  rw [decodeTransaction_eq]
  by_cases hshort : n.toNat < 10
  · exact .inl ⟨hshort, if_pos hshort⟩
  · right
    have hsome := @scanFrom_some b n.toNat 0 5
    have hnone := @scanFrom_none b n.toNat 0 5
    obtain ⟨k, f, hregs⟩ := scanFrom_regs b n.toNat 0 5 (startRegs n)
    rw [if_neg hshort]
    cases hscan : scanFrom b n.toNat 0 5 (startRegs n) with
    | mk r g =>
      obtain rfl : g = scannedRegs n k f := (congrArg Prod.snd hscan).symm.trans hregs
      cases r with
      | none =>
        exact .inl ⟨by omega, fun j hj => hnone (congrArg Prod.fst hscan) j (Nat.zero_le j) (by omega), k, f, rfl⟩
      | some s =>
        obtain ⟨_, hs, hpass, hfirst⟩ := hsome (congrArg Prod.fst hscan)
        exact .inr ⟨s, k, f, by omega, by omega, hpass, fun j hj => hfirst j (Nat.zero_le j) hj, rfl⟩

/-! ### The trailer -/

/-- The end-marker field, where its byte is present (42_integrity.md R157). -/
def endMarkEvents (b : Nat → Byte) (len t : Nat) : List Wires :=
  if t + 1 < len then [fieldEvent (t + 1) 1 .ftEnd ((b (t + 1)).setWidth 16)] else []

/-- The compare's diagnostic, where the sum is not the declared byte (R155). -/
def mismatchEvents (computed declared : Byte) : List Wires :=
  if computed = declared then []
  else [diagEvent .error .checksumMismatch (computed.setWidth 16) (declared.setWidth 16)]

/-- The sum of [s+4, T) (40_checksum.md R122). -/
def frameSumAt (b : Nat → Byte) (s t : Nat) : Byte := sumOf b (s + 4) (t - (s + 4))

theorem fitsIn_one {len a : Nat} (h : a < len) : fitsIn len a 1 = true := (fitsIn_iff _ _ _).2 h

theorem fitsIn_one_false {len a : Nat} (h : len ≤ a) : fitsIn len a 1 = false :=
  Bool.eq_false_iff.2 fun hfits => by have := (fitsIn_iff _ _ _).1 hfits; omega

theorem endMarkPart_eq (b : Nat → Byte) (len t : Nat) (d : Decoded) :
    (if fitsIn len (t + 1) 1 then d.emit [fieldEvent (t + 1) 1 .ftEnd ((b (t + 1)).setWidth 16)] else d) =
      d.emit (endMarkEvents b len t) := by
  by_cases h : t + 1 < len
  · rw [if_pos (fitsIn_one h), endMarkEvents, if_pos h]
  · rw [if_neg (by rw [fitsIn_one_false (Nat.not_lt.1 h)]; exact Bool.false_ne_true), endMarkEvents, if_neg h,
      Decoded.emit, List.append_nil]

/-- The trailer with T inside the buffer (R154, R155, R157). -/
theorem trailerPart_present (b : Nat → Byte) {len s t : Nat} (d : Decoded) (h : t < len) :
    trailerPart b len s t d = {
      regs := { d.regs with
        csumDecl := b t, csumAcc := frameSumAt b s t, csumCalc := frameSumAt b s t
        status := setFlagIf (frameSumAt b s t == b t) (setFlag d.regs.status .csumChecked) .csumOk }
      events := d.events ++ [fieldEvent t 1 .ftChecksum ((b t).setWidth 16)] ++ mismatchEvents (frameSumAt b s t) (b t) ++
        endMarkEvents b len t } := by
  have hsum : sumOf b (s + 4) (t - (s + 4)) = frameSumAt b s t := rfl
  simp only [trailerPart, endMarkPart_eq, fitsIn_one h, if_true, hsum]
  by_cases hsame : frameSumAt b s t = b t
  · simp only [hsame, BEq.rfl, if_true, mismatchEvents, Decoded.emit, Decoded.setRegs, List.append_nil]
  · simp only [beq_eq_false_iff_ne.2 hsame, hsame, Bool.false_eq_true, if_false, mismatchEvents, Decoded.emit,
      Decoded.setRegs]

/-- With T outside the buffer the trailer does nothing (R156, R157). -/
theorem trailerPart_absent (b : Nat → Byte) {len s t : Nat} (d : Decoded) (h : len ≤ t) : trailerPart b len s t d = d := by
  simp only [trailerPart, fitsIn_one_false h, fitsIn_one_false (show len ≤ t + 1 by omega), Bool.false_eq_true, if_false]

/-- The trailer's events (R154-R157). -/
def trailerEvents (b : Nat → Byte) (len s t : Nat) : List Wires :=
  if t < len then
    [fieldEvent t 1 .ftChecksum ((b t).setWidth 16)] ++ mismatchEvents (frameSumAt b s t) (b t) ++ endMarkEvents b len t
  else []

/-! ### A recognised frame's outcome -/

/-- The FRAME_INCOMPLETE diagnostic, where the end marker does not stand at T + 1 (R152). -/
def incompleteEvents (b : Nat → Byte) (len t : Nat) : List Wires :=
  if endMarkerIn b len t then [] else [diagEvent .warning .frameIncomplete (BitVec.ofNat 16 (t + 1)) 0]

/-- T of the frame at `s` (R150). -/
def trailerAt (b : Nat → Byte) (s : Nat) : Nat := s + 5 + (b (s + 1)).toNat

/-- What DECODE leaves of a frame at `s`: its place, the checks of its trailer, and its events in order. -/
structure FrameOutcome (b : Nat → Byte) (n : Word) (s : Nat) (d : Decoded) : Prop where
  startOff : d.regs.startOff.toNat = s
  dlen : d.regs.dlen = b (s + 1)
  ctrl : d.regs.ctrl = b (s + 4)
  toff : d.regs.toff.toNat = trailerAt b s
  recognized : getFlag d.regs.status .recognized = true
  short : getFlag d.regs.status .short = false
  complete : getFlag d.regs.status .complete = endMarkerIn b n.toNat (trailerAt b s)
  csumChecked : getFlag d.regs.status .csumChecked = decide (trailerAt b s < n.toNat)
  csumOk : getFlag d.regs.status .csumOk =
    (decide (trailerAt b s < n.toNat) && frameSumAt b s (trailerAt b s) == b (trailerAt b s))
  csumDecl : d.regs.csumDecl = if trailerAt b s < n.toNat then b (trailerAt b s) else 0
  csumCalc : d.regs.csumCalc = if trailerAt b s < n.toNat then frameSumAt b s (trailerAt b s) else 0
  events : ∃ es, (∀ w ∈ es, PlainField n.toNat w) ∧ d.events =
    incompleteEvents b n.toNat (trailerAt b s) ++ headerEvents b s ++ es ++ trailerEvents b n.toNat s (trailerAt b s)

/-- What the frame's stage has written before the telegram. -/
structure FrameFound (b : Nat → Byte) (n : Word) (s : Nat) (d : Decoded) : Prop where
  len : d.regs.len = n
  startOff : d.regs.startOff.toNat = s
  dlen : d.regs.dlen = b (s + 1)
  ctrl : d.regs.ctrl = b (s + 4)
  toff : d.regs.toff.toNat = trailerAt b s
  csumDecl : d.regs.csumDecl = 0
  csumCalc : d.regs.csumCalc = 0
  flag : ∀ f, getFlag d.regs.status f =
    (decide (f = .busy) || decide (f = .recognized) ||
      (endMarkerIn b n.toNat (trailerAt b s) && decide (f = .complete)))
  events : d.events = incompleteEvents b n.toNat (trailerAt b s) ++ headerEvents b s

theorem frameOf_found {s : Nat} (hs : s < 5) (b : Nat → Byte) (n : Word) (k : BitVec 3) (f : Bool) :
    FrameFound b n s (frameOf b s (scannedRegs n k f)) := by
  have hend : (acceptedAt b s (scannedRegs n k f)).declaredEnd = trailerAt b s := acceptedAt_declaredEnd hs b _
  have hregs := verifyPart_regs b { regs := acceptedAt b s (scannedRegs n k f), events := [] }
  have hevents := verifyPart_events b { regs := acceptedAt b s (scannedRegs n k f), events := [] }
  simp only [hend] at hregs hevents
  exact {
    len := by rw [frameOf, Decoded.emit, hregs]; rfl
    startOff := by rw [frameOf, Decoded.emit, hregs]; exact acceptedAt_startOff hs b (scannedRegs n k f)
    dlen := by rw [frameOf, Decoded.emit, hregs]; rfl
    ctrl := by rw [frameOf, Decoded.emit, hregs]; rfl
    toff := (verifyPart_toff b _).trans hend
    csumDecl := by rw [frameOf, Decoded.emit, hregs]; rfl
    csumCalc := by rw [frameOf, Decoded.emit, hregs]; rfl
    flag := fun x => by
      rw [frameOf, Decoded.emit, hregs, getFlag_setFlagIf]
      simp only [acceptedAt, scannedRegs, startRegs, getFlag_setFlag, getFlag_statusAtStart, eq_comm (b := x)]
    events := by rw [frameOf, Decoded.emit, hevents]; rfl }

/-- The STATUS bits after a compare and FINISH (R154, R272). -/
theorem getFlag_compared (w : BitVec 16) (same : Bool) (f : StatusBit) :
    getFlag (statusAtDone (setFlagIf same (setFlag w .csumChecked) .csumOk)) f =
      ((getFlag w f || decide (f = .csumChecked) || (same && decide (f = .csumOk)) || decide (f = .done)) &&
        decide (f ≠ .busy)) := by
  simp only [getFlag_statusAtDone, getFlag_setFlagIf, getFlag_setFlag, eq_comm (b := f)]

theorem trailerOf_outcome {conf : Params} {b : Nat → Byte} {n : Word} {s : Nat} {d : Decoded} (h : FrameFound b n s d) :
    FrameOutcome b n s (trailerOf b (telegramOf conf b d)) := by
  have hruns := telegramOf_runs conf b d
  obtain ⟨es, hes, hplain⟩ := hruns.events
  have hkept : ∀ f, f ∉ telegramBits → getFlag (telegramOf conf b d).regs.status f = _ :=
    fun f hf => (hruns.flag f hf).trans (h.flag f)
  have htoff : (telegramOf conf b d).regs.toff.toNat = trailerAt b s := (congrArg BitVec.toNat hruns.toff).trans h.toff
  have hstart : (telegramOf conf b d).regs.startOff.toNat = s := (congrArg BitVec.toNat hruns.startOff).trans h.startOff
  have hlen : (telegramOf conf b d).regs.len = n := hruns.len.trans h.len
  rw [h.len] at hplain
  rw [trailerOf, htoff, hstart, hlen]
  by_cases hin : trailerAt b s < n.toNat
  · rw [trailerPart_present b _ hin]
    exact {
      startOff := hstart
      dlen := hruns.dlen.trans h.dlen
      ctrl := hruns.ctrl.trans h.ctrl
      toff := htoff
      recognized := by simp [finishPart, Decoded.setRegs, getFlag_compared, hkept, telegramBits]
      short := by simp [finishPart, Decoded.setRegs, getFlag_compared, hkept, telegramBits]
      complete := by simp [finishPart, Decoded.setRegs, getFlag_compared, hkept, telegramBits]
      csumChecked := by simp [finishPart, Decoded.setRegs, getFlag_compared, hkept, telegramBits, hin]
      csumOk := by simp [finishPart, Decoded.setRegs, getFlag_compared, hkept, telegramBits, hin]
      csumDecl := (if_pos hin).symm
      csumCalc := (if_pos hin).symm
      events := ⟨es, hplain, by
        simp only [finishPart, Decoded.setRegs, hes, h.events, trailerEvents, if_pos hin, List.append_assoc]⟩ }
  · rw [trailerPart_absent b _ (Nat.not_lt.1 hin)]
    exact {
      startOff := hstart
      dlen := hruns.dlen.trans h.dlen
      ctrl := hruns.ctrl.trans h.ctrl
      toff := htoff
      recognized := by simp [finishPart, Decoded.setRegs, getFlag_statusAtDone, hkept, telegramBits]
      short := by simp [finishPart, Decoded.setRegs, getFlag_statusAtDone, hkept, telegramBits]
      complete := by simp [finishPart, Decoded.setRegs, getFlag_statusAtDone, hkept, telegramBits]
      csumChecked := by simp [finishPart, Decoded.setRegs, getFlag_statusAtDone, hkept, telegramBits, hin]
      csumOk := by simp [finishPart, Decoded.setRegs, getFlag_statusAtDone, hkept, telegramBits, hin]
      csumDecl := (hruns.csumDecl.trans h.csumDecl).trans (if_neg hin).symm
      csumCalc := (hruns.csumCalc.trans h.csumCalc).trans (if_neg hin).symm
      events := ⟨es, hplain, by
        simp only [finishPart, Decoded.setRegs, hes, h.events, trailerEvents, if_neg hin, List.append_nil]⟩ }

end Sys2Proof.Machine
end

section
/-!
SUPPORT. The statements about every decode, from its three outcomes: no event without a frame, events inside the buffer,
the diagnostics, the trailer's checks (45_orchestration.md R276; 60_exceptions.md R301-R306; 42_integrity.md R154-R159).
-/

namespace Sys2Proof.Machine

variable {conf : Params} {b : Nat → Byte} {n : Word} {s : Nat} {d : Decoded}

/-- A decode without a frame: no event, and the reset values but for LEN, STATUS and the locator's registers. -/
structure SilentOutcome (n : Word) (d : Decoded) : Prop where
  events : d.events = []
  regs : ∃ k f status, d.regs = { Regs.reset with len := n, status := status, scanI := k, ftFound := f }
  flag : ∀ f, getFlag d.regs.status f = ((decide (f = .short) && decide (n.toNat < 10)) || decide (f = .done))

theorem silent_short (hlen : n.toNat < 10) :
    SilentOutcome n (finishPart (Decoded.setStatus { regs := startRegs n, events := [] } .short)) := by
  refine ⟨rfl, ⟨0, false, _, rfl⟩, fun x => ?_⟩
  simp only [finishPart, Decoded.setStatus, Decoded.setRegs, startRegs, getFlag_statusAtDone, getFlag_setFlag,
    getFlag_statusAtStart, hlen]
  cases x <;> rfl

theorem silent_unrecognized (hlen : 10 ≤ n.toNat) (k : BitVec 3) (f : Bool) :
    SilentOutcome n (finishPart { regs := scannedRegs n k f, events := [] }) := by
  refine ⟨rfl, ⟨k, f, _, rfl⟩, fun x => ?_⟩
  simp only [finishPart, Decoded.setRegs, scannedRegs, startRegs, getFlag_statusAtDone, getFlag_statusAtStart,
    Nat.not_lt.2 hlen]
  cases x <;> rfl

/-- Every decode is silent or has found a frame at the first candidate that passes. -/
theorem decodeTransaction_outcome (conf : Params) (b : Nat → Byte) (n : Word) :
    ((n.toNat < 10 ∨ ∀ j, j < 5 → passesAt b n.toNat j = false) ∧ SilentOutcome n (decodeTransaction conf b n)) ∨
    ∃ s, s < 5 ∧ passesAt b n.toNat s = true ∧ (∀ j, j < s → passesAt b n.toNat j = false) ∧
      FrameOutcome b n s (decodeTransaction conf b n) := by
  obtain ⟨hlen, hd⟩ | ⟨hlen, hnone, k, f, hd⟩ | ⟨s, k, f, hlen, hs, hpass, hfirst, hd⟩ := decodeTransaction_cases conf b n
  · exact .inl ⟨.inl hlen, hd ▸ silent_short hlen⟩
  · exact .inl ⟨.inr hnone, hd ▸ silent_unrecognized hlen k f⟩
  · exact .inr ⟨s, hs, hpass, hfirst, hd ▸ trailerOf_outcome (frameOf_found hs b n k f)⟩

/-- Settles O54: a recognised frame's outcome has RECOGNIZED set, so without it the outcome is silent; a short buffer's
outcome is the first branch of DECODE, which reads nothing. -/
theorem notRecognizedIsSilent : Obligations.NotRecognizedIsSilent := by
  refine ⟨fun conf b n => ?_, fun conf b c n hlen => ?_⟩
  · intro d hnot
    obtain ⟨_, hsilent⟩ | ⟨s, _, _, _, hframe⟩ := decodeTransaction_outcome conf b n
    · obtain ⟨k, f, status, hregs⟩ := hsilent.regs
      refine ⟨hsilent.events, by rw [hsilent.flag]; rfl, by rw [hsilent.flag]; rfl, ?_⟩
      simp only [d, hregs]
      exact ⟨rfl, rfl, rfl, rfl, rfl, rfl, rfl, rfl, rfl, rfl, rfl, rfl⟩
    · rw [hframe.recognized] at hnot
      cases hnot
  · rw [decodeTransaction_eq, decodeTransaction_eq, if_pos hlen, if_pos hlen]
    simp only [finishPart, Decoded.setStatus, Decoded.setRegs, startRegs, getFlag_statusAtDone, getFlag_setFlag,
      getFlag_statusAtStart]
    exact ⟨rfl, rfl, trivial⟩

/-! ### The events -/

theorem PlainField.insideBuffer {len : Nat} {w : Wires} (h : PlainField len w) : insideBuffer len w := fun _ => h.inside

theorem headerEvents_plain {len : Nat} (b : Nat → Byte) (h : s + 6 ≤ len) :
    ∀ w ∈ headerEvents b s, PlainField len w := by
  intro w hw
  obtain ⟨k, hk, rfl⟩ := List.mem_mapIdx.1 hw
  have hk6 : k < 6 := hk
  exact plainField_fieldEvent _ (by omega) (headerTags_ne (List.getElem?_eq_getElem hk))

/-- The events of a recognised frame: diagnostics, and FIELD events inside the buffer. -/
theorem trailerEvents_encoded (b : Nat → Byte) (len s t : Nat) : ∀ w ∈ trailerEvents b len s t, EncodedEvent len w := by
  intro w hw
  unfold trailerEvents mismatchEvents endMarkEvents at hw
  split at hw
  next hin =>
    obtain hw | hw := List.mem_append.1 hw
    · obtain hw | hw := List.mem_append.1 hw
      · obtain rfl := List.mem_singleton.1 hw
        exact .checksum rfl rfl rfl (ofNat_add_ofNat_le hin)
      · split at hw
        · cases hw
        · obtain rfl := List.mem_singleton.1 hw
          exact .mismatch _ _ rfl
    · split at hw
      next hend =>
        obtain rfl := List.mem_singleton.1 hw
        exact .plain (plainField_fieldEvent _ hend (by decide))
      next => cases hw
  next => cases hw

theorem incompleteEvents_encoded (b : Nat → Byte) (len t : Nat) : ∀ w ∈ incompleteEvents b len t, EncodedEvent len w := by
  intro w hw
  unfold incompleteEvents at hw
  split at hw
  · cases hw
  · obtain rfl := List.mem_singleton.1 hw
    exact .incomplete _ rfl

/-- A candidate that passes has six bytes. -/
theorem passesAt_fits {len : Nat} (h : passesAt b len s = true) : s + 6 ≤ len := ((passesAt_iff b len s).1 h).1

theorem FrameOutcome.encoded (h : FrameOutcome b n s d) (hpass : passesAt b n.toNat s = true) :
    ∀ w ∈ d.events, EncodedEvent n.toNat w := by
  obtain ⟨es, hplain, hevents⟩ := h.events
  simp only [hevents, List.mem_append]
  rintro w (((hw | hw) | hw) | hw)
  · exact incompleteEvents_encoded b _ _ w hw
  · exact .plain (headerEvents_plain b (passesAt_fits hpass) w hw)
  · exact .plain (hplain w hw)
  · exact trailerEvents_encoded b _ _ _ w hw

/-- Settles O55: a silent decode has no event, and each event of a recognised frame is one of those listed. -/
theorem eventsInsideBuffer : Obligations.EventsInsideBuffer := by
  intro conf b n w hw
  obtain ⟨_, hsilent⟩ | ⟨s, _, hpass, _, hframe⟩ := decodeTransaction_outcome conf b n
  · rw [hsilent.events] at hw
    cases hw
  · exact (hframe.encoded hpass w hw).insideBuffer

/-! ### The diagnostics -/

theorem filter_diag_of_plain {len : Nat} {es : List Wires} (h : ∀ w ∈ es, PlainField len w) :
    es.filter (·.diag) = [] :=
  List.filter_eq_nil_iff.2 fun w hw => by rw [(h w hw).field]; exact Bool.false_ne_true

theorem filter_diag_incomplete (b : Nat → Byte) (len t : Nat) :
    (incompleteEvents b len t).filter (·.diag) = incompleteEvents b len t := by
  unfold incompleteEvents
  split <;> rfl

theorem filter_diag_trailer (b : Nat → Byte) (len s t : Nat) :
    (trailerEvents b len s t).filter (·.diag) =
      if t < len then mismatchEvents (frameSumAt b s t) (b t) else [] := by
  unfold trailerEvents mismatchEvents endMarkEvents
  split
  · rw [List.filter_append, List.filter_append]
    split <;> split <;> rfl
  · rfl

/-- Settles O57: of a recognised frame's events the diagnostics are the two of its trailer (`filter_diag_incomplete`,
`filter_diag_trailer`), and the STATUS bits record their conditions. -/
theorem diagnosticsExactly : Obligations.DiagnosticsExactly := by
  intro conf b n d
  obtain ⟨_, hsilent⟩ | ⟨s, _, hpass, _, hframe⟩ := decodeTransaction_outcome conf b n
  · have hflag : ∀ f, getFlag d.regs.status f = _ := hsilent.flag
    rw [hflag, hflag, hflag, show d.events = [] from hsilent.events]
    rfl
  · obtain ⟨es, hplain, hevents⟩ := hframe.events
    have htoff : d.regs.toff + 1 = BitVec.ofNat 16 (trailerAt b s + 1) := by
      refine BitVec.eq_of_toNat_eq ?_
      rw [BitVec.toNat_add, hframe.toff, BitVec.toNat_ofNat]
      rfl
    have hdiag : d.events.filter (·.diag) = incompleteEvents b n.toNat (trailerAt b s) ++
        if trailerAt b s < n.toNat then mismatchEvents (frameSumAt b s (trailerAt b s)) (b (trailerAt b s)) else [] := by
      rw [show d.events = _ from hevents, List.filter_append, List.filter_append, List.filter_append,
        filter_diag_incomplete, filter_diag_of_plain (headerEvents_plain b (passesAt_fits hpass)),
        filter_diag_of_plain hplain, filter_diag_trailer, List.append_nil, List.append_nil]
    rw [hdiag, htoff, hframe.recognized, hframe.complete, hframe.csumChecked, hframe.csumOk, hframe.csumDecl,
      hframe.csumCalc]
    congr 1
    · unfold incompleteEvents
      cases endMarkerIn b n.toNat (trailerAt b s) <;> rfl
    · unfold mismatchEvents
      by_cases hin : trailerAt b s < n.toNat
      · by_cases hsame : frameSumAt b s (trailerAt b s) = b (trailerAt b s)
        · simp only [hin, hsame, BEq.rfl, if_true, Bool.and_true, decide_true, and_false, reduceCtorEq,
            if_false]
        · simp only [hin, hsame, beq_eq_false_iff_ne.2 hsame, if_true, if_false, Bool.and_false, decide_true, and_self]
          rfl
      · simp only [hin, if_false, decide_false, Bool.false_eq_true, false_and]

/-- A CHECKSUM_MISMATCH event says that the checksum was compared and did not match. -/
theorem compared_of_mismatch {w : Wires} (hw : w ∈ (decodeTransaction conf b n).events) (hdiag : w.diag = true)
    (htag : w.tag = 2) :
    getFlag (decodeTransaction conf b n).regs.status .csumChecked = true ∧
      getFlag (decodeTransaction conf b n).regs.status .csumOk = false := by
  have hmem : w ∈ (decodeTransaction conf b n).events.filter (·.diag) := List.mem_filter.2 ⟨hw, hdiag⟩
  have hexact := diagnosticsExactly conf b n
  dsimp only at hexact
  rw [hexact] at hmem
  obtain hmem | hmem := List.mem_append.1 hmem
  · split at hmem
    · obtain rfl := List.mem_singleton.1 hmem
      exact absurd (show (1 : BitVec 8) = 2 from htag) (by decide)
    · cases hmem
  · split at hmem
    next h => exact h
    next => cases hmem

/-! ### The trailer's checks -/

/-- Settles O58: the sum of [s+4, T) is the declared byte, so CSUM_OK is set, which excludes the mismatch. -/
theorem checksumRoundTrip : Obligations.ChecksumRoundTrip := by
  intro conf b n d lo t hrecognized hin hsum
  obtain ⟨_, hsilent⟩ | ⟨s, _, _, _, hframe⟩ := decodeTransaction_outcome conf b n
  · rw [show getFlag d.regs.status .recognized = _ from hsilent.flag _] at hrecognized
    cases hrecognized
  · have hlo : lo = s + 4 := congrArg (· + 4) hframe.startOff
    have ht : t = trailerAt b s := hframe.toff
    rw [ht] at hin hsum
    rw [hlo, ← toNat_sumOf] at hsum
    have hsame : frameSumAt b s (trailerAt b s) = b (trailerAt b s) := (BitVec.eq_of_toNat_eq hsum).symm
    have hok : getFlag d.regs.status .csumOk = true := by rw [hframe.csumOk, hsame, decide_eq_true hin]; simp
    refine ⟨hframe.csumChecked.trans (decide_eq_true hin), hok, fun w hw hdiag htag => ?_⟩
    have hnot := (compared_of_mismatch hw hdiag htag).2
    rw [show getFlag (decodeTransaction conf b n).regs.status .csumOk = true from hok] at hnot
    cases hnot

theorem tagCode_eq_checksum {tag : Tag} (h : tag.code = 0x50) : tag = .ftChecksum := by
  revert h
  cases tag <;> decide

/-- Settles O59: with T beyond the buffer nor T + 1 lies inside it; the trailer emits nothing, and no event before it has
the declared checksum's tag. -/
theorem absentChecksum : Obligations.AbsentChecksum := by
  intro conf b n d hrecognized hbeyond
  obtain ⟨_, hsilent⟩ | ⟨s, _, hpass, _, hframe⟩ := decodeTransaction_outcome conf b n
  · rw [show getFlag d.regs.status .recognized = _ from hsilent.flag _] at hrecognized
    cases hrecognized
  · rw [show d.regs.toff.toNat = _ from hframe.toff] at hbeyond
    have hout : ¬ trailerAt b s < n.toNat := Nat.not_lt.2 hbeyond
    have hchecked : getFlag d.regs.status .csumChecked = false := hframe.csumChecked.trans (decide_eq_false hout)
    obtain ⟨es, hplain, hevents⟩ := hframe.events
    refine ⟨hchecked, ?_, ?_, hframe.csumCalc.trans (if_neg hout), fun w hw hfield htag => ?_, fun w hw hdiag htag => ?_⟩
    · rw [hframe.csumOk, decide_eq_false hout, Bool.false_and]
    · rw [hframe.complete, endMarkerIn, fitsIn_one_false (by omega), Bool.false_and]
    · have hfields : ∀ x ∈ headerEvents b s ++ es, PlainField n.toNat x := fun x hx => by
        obtain hx | hx := List.mem_append.1 hx
        · exact headerEvents_plain b (passesAt_fits hpass) x hx
        · exact hplain x hx
      rw [show d.events = _ from hevents, trailerEvents, if_neg hout, List.append_nil, List.append_assoc] at hw
      obtain hw | hw := List.mem_append.1 hw
      · rw [← filter_diag_incomplete] at hw
        rw [(List.mem_filter.1 hw).2] at hfield
        cases hfield
      · obtain ⟨tag, hne, hcode⟩ := (hfields w hw).tagged
        exact hne (tagCode_eq_checksum (hcode.symm.trans htag))
    · have hcompared := (compared_of_mismatch hw hdiag htag).1
      rw [show getFlag (decodeTransaction conf b n).regs.status .csumChecked = false from hchecked] at hcompared
      cases hcompared

/-- Settles O60: with DLEN = 0 T is s + 5, so the sum is the control byte alone and the declared byte is the main
service's, which is no control code. -/
theorem dlenZeroMismatches : Obligations.DlenZeroMismatches := by
  intro conf b n d hrecognized hzero
  obtain ⟨_, hsilent⟩ | ⟨s, _, hpass, _, hframe⟩ := decodeTransaction_outcome conf b n
  · rw [show getFlag d.regs.status .recognized = _ from hsilent.flag _] at hrecognized
    cases hrecognized
  · obtain ⟨hlen, _, _, hctrl, hmain⟩ := (passesAt_iff _ _ _).1 hpass
    have ht : trailerAt b s = s + 5 := by
      rw [trailerAt, ← hframe.dlen, show (decodeTransaction conf b n).regs.dlen = 0 from hzero]
      rfl
    have hsum : frameSumAt b s (s + 5) = b (s + 4) := by
      rw [frameSumAt, show s + 5 - (s + 4) = 1 by omega, sumOf, sumOf]
      exact BitVec.add_zero _
    have hin : s + 5 < n.toNat := hlen
    refine ⟨?_, ?_, ?_, ?_⟩
    · rw [hframe.csumChecked, ht, decide_eq_true hin]
    · rw [hframe.csumOk, ht, hsum, hmain, beq_eq_false_iff_ne.2 fun heq => ?_, Bool.and_false]
      rw [heq] at hctrl
      exact absurd hctrl (by decide)
    · rw [hframe.csumCalc, ht, if_pos hin, hsum, hframe.ctrl]
    · rw [hframe.csumDecl, ht, if_pos hin, hmain]

/-! ### The bounds -/

/-- R33, R34, R210 of the registers. -/
structure Within (g : Regs) : Prop where
  counted : g.recDone.toNat ≤ g.count.toNat
  cursor : g.cur.toNat ≤ g.len.toNat
  records : 0 < g.recDone.toNat → g.startOff.toNat + 11 + g.recDone.toNat ≤ g.len.toNat

/-- Before a record, with `left` records still declared: the records so far took a byte each at least, from P+6 on. -/
structure LoopWithin (left : Nat) (g : Regs) : Prop where
  counted : g.recDone.toNat + left ≤ g.count.toNat
  records : g.startOff.toNat + 11 + g.recDone.toNat ≤ g.cur.toNat
  cursor : g.cur.toNat ≤ g.len.toNat

theorem LoopWithin.within {left : Nat} {g : Regs} (h : LoopWithin left g) : Within g :=
  ⟨by have := h.counted; omega, h.cursor, fun _ => h.records.trans h.cursor⟩

theorem within_of_noRecord {g : Regs} (hrec : g.recDone = 0) (hcur : g.cur.toNat ≤ g.len.toNat) : Within g :=
  ⟨by rw [hrec]; exact Nat.zero_le _, hcur, fun h => by rw [hrec] at h; exact absurd h (Nat.lt_irrefl 0)⟩

theorem LoopWithin.advanced {left stride : Nat} {g : Regs} (h : LoopWithin (left + 1) g) (hstride : 1 ≤ stride)
    (hfits : g.cur.toNat + stride ≤ g.len.toNat) : LoopWithin left (g.advanced stride) := by
  have hcount : g.count.toNat < 2 ^ 16 := g.count.isLt
  have hlen : g.len.toNat < 2 ^ 16 := g.len.isLt
  obtain ⟨hcounted, hrecords, _⟩ := h
  have hrec : (g.advanced stride).recDone.toNat = g.recDone.toNat + 1 := by
    rw [Regs.advanced, BitVec.toNat_add, Nat.mod_eq_of_lt]
    · rfl
    · change g.recDone.toNat + 1 < 2 ^ 16
      omega
  have hcur : (g.advanced stride).cur.toNat = g.cur.toNat + stride := by
    rw [Regs.advanced, BitVec.toNat_ofNat, Nat.mod_eq_of_lt (by omega)]
  refine ⟨?_, ?_, ?_⟩
  · rw [hrec]
    change g.recDone.toNat + 1 + left ≤ g.count.toNat
    omega
  · rw [hrec, hcur]
    change g.startOff.toNat + 11 + (g.recDone.toNat + 1) ≤ _
    omega
  · rw [hcur]
    exact hfits

theorem recordLoop_within {c : Params} {k : Kind} {sh : Shape} (hshape : shapeOf c k = some sh) (b : Nat → Byte)
    (table : List (Nat × ViewType)) (left : Nat) (d : Decoded) (h : LoopWithin left d.regs) :
    Within (recordLoop b table d.regs.len.toNat sh left d).regs := by
  obtain ⟨_, _, _, hsize⟩ := shapeOf_fields _ _ _ hshape
  induction left generalizing d with
  | zero => exact h.within
  | succ left ih =>
    have htrunc := h.within
    rw [recordLoop_succ]
    split
    next =>
      split
      next hdata =>
        have hfits := (fitsIn_iff _ _ _).1 hdata
        exact ih (recordRead b table sh d) (h.advanced (by omega) (by omega))
      next => exact ⟨htrunc.counted, htrunc.cursor, htrunc.records⟩
    next => exact ⟨htrunc.counted, htrunc.cursor, htrunc.records⟩

theorem selectOf_within (conf : Params) (b : Nat → Byte) (m : MuxOut) (d : Decoded) (hrec : d.regs.recDone = 0)
    (hlen : d.regs.startOff.toNat + 11 ≤ d.regs.len.toNat) : Within (selectOf conf b m d).regs := by
  have hcur : d.regs.selected.cur.toNat = d.regs.startOff.toNat + 11 := d.regs.selected_cur_toNat
  have hloop : LoopWithin d.regs.count.toNat d.regs.selected :=
    ⟨by rw [show d.regs.selected.recDone = 0 from hrec]; exact (Nat.zero_add _).le,
      by rw [show d.regs.selected.recDone = 0 from hrec, hcur]; exact le_rfl, by rw [hcur]; exact hlen⟩
  have hw := hloop.within
  unfold selectOf
  rw [selectPart_eq]
  cases selectionOf m (d.setRegs d.regs.selected).regs.count with
  | nothing => exact hw
  | errorCode =>
    simp only [errorCodePart]
    split <;> exact ⟨hw.counted, hw.cursor, hw.records⟩
  | filter =>
    simp only [filterPart]
    split <;> exact ⟨hw.counted, hw.cursor, hw.records⟩
  | records =>
    change Within (recordsPart _ _ _ _ _ _).regs
    unfold recordsPart
    split
    next hshape => exact recordLoop_within hshape b _ _ (d.setRegs d.regs.selected) hloop
    next => exact hw

theorem bodyOf_within (conf : Params) (b : Nat → Byte) (m : MuxOut) (d : Decoded) (hrec : d.regs.recDone = 0)
    (hcur : d.regs.cur = 0) : Within (bodyOf conf b m d).regs := by
  have hzero : ∀ g : Regs, g.recDone = d.regs.recDone → g.cur = d.regs.cur → Within g := fun g hr hc =>
    within_of_noRecord (hr.trans hrec) (by rw [hc, hcur]; exact Nat.zero_le _)
  unfold bodyOf
  split
  · unfold countOf
    split
    next hfits => exact selectOf_within conf b m _ hrec ((fitsIn_iff _ _ _).1 hfits)
    next => exact hzero _ rfl rfl
  · exact hzero _ rfl rfl

/-- The bounds after the telegram, and KIND as the mux's output for SUB (R27): both are 0 where SUB is absent. -/
theorem telegramOf_within (conf : Params) (b : Nat → Byte) (d : Decoded) (hrec : d.regs.recDone = 0)
    (hcur : d.regs.cur = 0) (hsub : d.regs.sub = 0) (hkind : d.regs.kind = 0) :
    Within (telegramOf conf b d).regs ∧
      (telegramOf conf b d).regs.kind = (dispatch (telegramOf conf b d).regs.sub).kind.code := by
  have hzero : ∀ g : Regs, g.recDone = d.regs.recDone → g.cur = d.regs.cur → Within g := fun g hr hc =>
    within_of_noRecord (hr.trans hrec) (by rw [hc, hcur]; exact Nat.zero_le _)
  rw [telegramOf_eq]
  split
  · unfold dispatchOf
    dsimp only
    split
    · exact ⟨hzero _ rfl rfl, rfl⟩
    · refine ⟨bodyOf_within conf b _ _ hrec hcur, ?_⟩
      rw [(bodyOf_runs conf b _ _).keeps.kind, (bodyOf_runs conf b _ _).keeps.sub]
      rfl
  · refine ⟨hzero _ rfl rfl, ?_⟩
    change d.regs.kind = (dispatch d.regs.sub).kind.code
    rw [hkind, hsub]
    rfl

/-- The STATUS bits that the trailer can change. -/
def trailerBits : List StatusBit := [.csumChecked, .csumOk, .done, .busy]

/-- The trailer writes the checksum's registers and STATUS alone. -/
theorem trailerOf_regs (b : Nat → Byte) (d : Decoded) : ∃ decl acc sum status,
    (trailerOf b d).regs =
      { d.regs with csumDecl := decl, csumAcc := acc, csumCalc := sum, status := status } ∧
    ∀ f, f ∉ trailerBits → getFlag status f = getFlag d.regs.status f := by
  rw [trailerOf]
  by_cases hin : d.regs.toff.toNat < d.regs.len.toNat
  · rw [trailerPart_present b d hin]
    refine ⟨_, _, _, _, rfl, fun f hf => ?_⟩
    simp only [trailerBits, List.mem_cons, List.not_mem_nil, or_false, not_or] at hf
    obtain ⟨hchecked, hok, hdone, hbusy⟩ := hf
    rw [getFlag_compared]
    simp [hchecked, hok, hdone, hbusy]
  · rw [trailerPart_absent b d (Nat.not_lt.1 hin)]
    refine ⟨_, _, _, _, rfl, fun f hf => ?_⟩
    simp only [trailerBits, List.mem_cons, List.not_mem_nil, or_false, not_or] at hf
    obtain ⟨_, _, hdone, hbusy⟩ := hf
    rw [getFlag_statusAtDone]
    simp [hdone, hbusy]

/-- A frame's stage leaves the telegram's registers at their reset values. -/
theorem frameOf_regs (b : Nat → Byte) (s : Nat) (k : BitVec 3) (f : Bool) :
    (frameOf b s (scannedRegs n k f)).regs.recDone = 0 ∧ (frameOf b s (scannedRegs n k f)).regs.cur = 0 ∧
    (frameOf b s (scannedRegs n k f)).regs.sub = 0 ∧ (frameOf b s (scannedRegs n k f)).regs.kind = 0 := by
  rw [frameOf, Decoded.emit, verifyPart_regs]
  exact ⟨rfl, rfl, rfl, rfl⟩

/-- The bounds of O56, and KIND against SUB. -/
structure Bounded (n : Word) (g : Regs) : Prop where
  counted : g.recDone.toNat ≤ g.count.toNat
  cursor : g.cur.toNat ≤ n.toNat
  records : 0 < g.recDone.toNat → g.startOff.toNat + 11 + g.recDone.toNat ≤ n.toNat
  kind : g.kind = (dispatch g.sub).kind.code

/-- Without a frame all these registers are 0. -/
theorem SilentOutcome.bounded (h : SilentOutcome n d) : Bounded n d.regs := by
  obtain ⟨k, f, status, hregs⟩ := h.regs
  rw [hregs]
  exact ⟨le_rfl, Nat.zero_le _, fun hpos => absurd hpos (Nat.lt_irrefl 0), rfl⟩

/-- The trailer does not touch these registers. -/
theorem trailerOf_bounded (b : Nat → Byte) (hlen : d.regs.len = n) (hwithin : Within d.regs)
    (hmux : d.regs.kind = (dispatch d.regs.sub).kind.code) : Bounded n (trailerOf b d).regs := by
  subst hlen
  obtain ⟨decl, acc, sum, status, hregs, _⟩ := trailerOf_regs b d
  rw [hregs]
  exact ⟨hwithin.counted, hwithin.cursor, hwithin.records, hmux⟩

/-- With a frame they are what the telegram has left. -/
theorem frame_bounded (conf : Params) (b : Nat → Byte) {s : Nat} (hs : s < 5) (k : BitVec 3) (f : Bool) :
    Bounded n (trailerOf b (telegramOf conf b (frameOf b s (scannedRegs n k f)))).regs := by
  obtain ⟨hrec, hcur, hsub, hkind⟩ := frameOf_regs (n := n) b s k f
  obtain ⟨hwithin, hmux⟩ := telegramOf_within conf b _ hrec hcur hsub hkind
  exact trailerOf_bounded b ((telegramOf_runs conf b _).len.trans (frameOf_found hs b n k f).len) hwithin hmux

theorem decodeTransaction_bounded (conf : Params) (b : Nat → Byte) (n : Word) :
    Bounded n (decodeTransaction conf b n).regs := by
  obtain ⟨hlen, hd⟩ | ⟨hlen, _, k, f, hd⟩ | ⟨s, k, f, _, hs, _, _, hd⟩ := decodeTransaction_cases conf b n
  · rw [hd]; exact (silent_short hlen).bounded
  · rw [hd]; exact (silent_unrecognized hlen k f).bounded
  · rw [hd]; exact frame_bounded conf b hs k f

/-- Settles O56: `decodeTransaction_bounded`; and a recognised frame stands at a candidate that passes. -/
theorem recordsBounded : Obligations.RecordsBounded := by
  intro conf b n g
  obtain ⟨hcounted, hcursor, hrecords, hkind⟩ := decodeTransaction_bounded conf b n
  refine ⟨hcounted, hcursor, hrecords, fun hrecognized => ?_, hkind⟩
  obtain ⟨_, hsilent⟩ | ⟨s, hs, hpass, _, hframe⟩ := decodeTransaction_outcome conf b n
  · rw [show getFlag g.status .recognized = _ from hsilent.flag _] at hrecognized
    cases hrecognized
  · obtain ⟨_, _, _, hctrl, _⟩ := (passesAt_iff _ _ _).1 hpass
    refine ⟨?_, ?_, ?_⟩
    · rw [show g.startOff.toNat = s from hframe.startOff]; omega
    · rw [show g.ctrl = _ from hframe.ctrl]; exact hctrl
    · rw [show g.toff.toNat = _ from hframe.toff, show g.startOff.toNat = s from hframe.startOff,
        show g.dlen = _ from hframe.dlen, trailerAt]

end Sys2Proof.Machine
end

section
/-!
SUPPORT. A well-formed frame decoded back (30_encoding.md R103; 40_checksum.md R125): where its bytes stand in the buffer,
and what the decode of those bytes is.
-/

namespace Sys2Proof.Machine

variable {f : Frame} {b : Nat → Byte}

/-- The buffer holds the frame's bytes. -/
def Holds (b : Nat → Byte) (bytes : List Byte) : Prop := ∀ k, k < bytes.length → bytes[k]? = some (b k)

theorem Holds.at {b : Nat → Byte} {bytes : List Byte} (h : Holds b bytes) {k : Nat} {x : Byte} (hk : bytes[k]? = some x) :
    b k = x :=
  Option.some.inj ((h k (List.getElem?_eq_some_iff.1 hk).1).symm.trans hk)

/-- The frame's payload length (R103). -/
theorem length_payload (f : Frame) : f.payload.length = f.payloadLength := by
  simp only [Frame.payload, encode, Frame.payloadLength, List.length_cons, List.length_append, List.length_nil]
  omega

/-- The byte `k` places behind the junk. -/
theorem getElem?_bytes (f : Frame) {k : Nat} {x : Byte} (h : (frameBytes f.control.byte f.payload)[k]? = some x) :
    f.bytes[f.junk.length + k]? = some x := by
  have hk : k < (frameBytes f.control.byte f.payload).length := (List.getElem?_eq_some_iff.1 h).1
  rw [Frame.bytes, List.append_assoc, List.getElem?_append_right (by omega), Nat.add_sub_cancel_left,
    List.getElem?_append_left hk, h]

/-- The bytes of the payload stand five places behind the start marker. -/
theorem getElem?_frameBytes_payload (ctrl : Byte) (payload : List Byte) {k : Nat} (hk : k < payload.length) :
    (frameBytes ctrl payload)[5 + k]? = payload[k]? := by
  simp only [frameBytes]
  rw [List.append_assoc, List.getElem?_append_right (by simp), List.getElem?_append_left (by simpa using hk)]
  simp

/-- The two trailer bytes follow the payload. -/
theorem getElem?_frameBytes_trailer (ctrl : Byte) (payload : List Byte) (k : Nat) :
    (frameBytes ctrl payload)[5 + payload.length + k]? = [ctrl + byteSum payload, Config.ftEnd][k]? := by
  have hlen : ([Config.ftStart, BitVec.ofNat 8 payload.length, BitVec.ofNat 8 payload.length, Config.ftStart, ctrl] ++
      payload).length = 5 + payload.length := by
    rw [List.length_append]
    rfl
  rw [frameBytes, List.getElem?_append_right (by rw [hlen]; omega), hlen, Nat.add_sub_cancel_left]

/-- The sum over the places where a list of bytes stands (40_checksum.md R120). -/
theorem sumOf_eq_byteSum {b : Nat → Byte} {a : Nat} {bytes : List Byte}
    (h : ∀ k, k < bytes.length → bytes[k]? = some (b (a + k))) : sumOf b a bytes.length = byteSum bytes := by
  induction bytes generalizing a with
  | nil => rfl
  | cons x bytes ih =>
    have hhead : x = b a := Option.some.inj (h 0 (Nat.succ_pos _))
    rw [List.length_cons, sumOf, byteSum, hhead, ih fun k hk => ?_]
    have htail := h (k + 1) (Nat.succ_lt_succ hk)
    rwa [Nat.add_right_comm]

/-- Where the parts of a well-formed frame stand in the buffer (30_encoding.md R103). -/
structure FrameStands (f : Frame) (b : Nat → Byte) : Prop where
  junk : ∀ j, j < f.junk.length → b j ≠ 0x68
  first : b f.junk.length = 0x68
  length : (b (f.junk.length + 1)).toNat = f.payloadLength
  second : b (f.junk.length + 3) = 0x68
  control : b (f.junk.length + 4) = f.control.byte
  main : b (f.junk.length + 5) = 0xF0
  sub : b (f.junk.length + 6) = f.sub.code
  sum : frameSumAt b f.junk.length (f.junk.length + 5 + f.payloadLength) = b (f.junk.length + 5 + f.payloadLength)
  endMark : b (f.junk.length + 5 + f.payloadLength + 1) = 0x16

theorem frameStands_of_holds (hb : Holds b f.bytes) (hclean : f.junkClean = true) (hfits : f.payloadFits = true) :
    FrameStands f b := by
  have hpayload : f.payloadLength ≤ 255 := of_decide_eq_true hfits
  have hat : ∀ {k : Nat} {x : Byte}, (frameBytes f.control.byte f.payload)[k]? = some x → b (f.junk.length + k) = x :=
    fun h => hb.at (getElem?_bytes f h)
  have hpay : ∀ k, k < f.payload.length → f.payload[k]? = some (b (f.junk.length + 5 + k)) := fun k hk => by
    have helem := List.getElem?_eq_getElem hk
    rw [Nat.add_assoc, hat ((getElem?_frameBytes_payload f.control.byte f.payload hk).trans helem), helem]
  have hsum : sumOf b (f.junk.length + 5) f.payloadLength = byteSum f.payload :=
    (length_payload f) ▸ sumOf_eq_byteSum hpay
  have hcontrol : b (f.junk.length + 4) = f.control.byte := hat rfl
  have hdeclared : b (f.junk.length + 5 + f.payloadLength) = f.control.byte + byteSum f.payload := by
    rw [← length_payload f, Nat.add_assoc]
    exact hat (getElem?_frameBytes_trailer f.control.byte f.payload 0)
  exact {
    junk := fun j hj => by
      have hmem : f.junk[j] ∈ f.junk := List.getElem_mem hj
      have hjunk : b j = f.junk[j] := hb.at (by
        rw [Frame.bytes, List.append_assoc, List.getElem?_append_left hj, List.getElem?_eq_getElem hj])
      rw [hjunk]
      exact bne_iff_ne.1 (List.all_eq_true.1 hclean _ hmem)
    first := hat (k := 0) rfl
    length := by
      rw [hat (k := 1) rfl, BitVec.toNat_ofNat, length_payload f, Nat.mod_eq_of_lt (by omega)]
    second := hat (k := 3) rfl
    control := hcontrol
    main := hat (k := 5) rfl
    sub := hat (k := 6) rfl
    sum := by
      rw [frameSumAt, show f.junk.length + 5 + f.payloadLength - (f.junk.length + 4) = f.payloadLength + 1 by omega,
        sumOf, hcontrol, hsum, hdeclared]
    endMark := by
      rw [← length_payload f, Nat.add_assoc, Nat.add_assoc]
      exact hat (getElem?_frameBytes_trailer f.control.byte f.payload 1) }

theorem Control.byte_mem (c : Control) : c.byte ∈ [(0x73 : Byte), 0x53, 0xF3, 0xD3] := by cases c <;> decide

/-- The frame's start is the first candidate that passes (41_locator.md R132). -/
theorem FrameStands.passes (h : FrameStands f b) {len : Nat} (hlen : f.junk.length + 6 ≤ len) :
    passesAt b len f.junk.length = true ∧ ∀ j, j < f.junk.length → passesAt b len j = false := by
  refine ⟨(passesAt_iff _ _ _).2 ⟨hlen, h.first, h.second, h.control ▸ Control.byte_mem _, h.main⟩, fun j hj => ?_⟩
  exact Bool.eq_false_iff.2 fun hpass => h.junk j hj ((passesAt_iff _ _ _).1 hpass).2.1

/-- A recognised sub-service that is present stands in SUB, with SUB_VALID and without UNKNOWN_SUB (43_dispatch.md R192). -/
theorem telegramOf_sub (conf : Params) (b : Nat → Byte) {d : Decoded} {i : Instr}
    (hin : d.regs.startOff.toNat + 6 < d.regs.len.toNat) (hsub : b (d.regs.startOff.toNat + 6) = i.code)
    (hunknown : getFlag d.regs.status .unknownSub = false) :
    (telegramOf conf b d).regs.sub = i.code ∧ getFlag (telegramOf conf b d).regs.status .subValid = true ∧
      getFlag (telegramOf conf b d).regs.status .unknownSub = false := by
  have hread : (subRead b d).regs.sub = i.code := hsub
  have hkind : (dispatch (subRead b d).regs.sub).kind ≠ .none := by
    rw [hread, dispatch_kind]
    exact kindTable_ne_none i
  rw [telegramOf_eq, if_pos (fitsIn_one hin), dispatchOf, if_neg hkind]
  have hkeeps := (bodyOf_runs conf b (dispatch (subRead b d).regs.sub)
    ((subRead b d).setRegs { (subRead b d).regs with kind := (dispatch (subRead b d).regs.sub).kind.code })).keeps
  refine ⟨hkeeps.sub.trans hread, (hkeeps.flag _ (by decide)).trans (getFlag_setFlag_same _ _),
    (hkeeps.flag _ (by decide)).trans ?_⟩
  exact (getFlag_setFlag_other _ _ _ (by decide)).trans hunknown

/-- A decode whose STATUS bits record neither diagnostic's condition has none (60_exceptions.md R303, R304). -/
theorem no_diagnostics {conf : Params} {n : Word}
    (hcomplete : getFlag (decodeTransaction conf b n).regs.status .complete = true)
    (hok : getFlag (decodeTransaction conf b n).regs.status .csumOk = true) :
    ∀ w ∈ (decodeTransaction conf b n).events, w.diag = false := by
  have hexact := diagnosticsExactly conf b n
  simp only [hcomplete, hok, Bool.true_eq_false, and_false, if_false, List.append_nil, List.filter_eq_nil_iff] at hexact
  exact fun w hw => Bool.eq_false_iff.2 (hexact w hw)

/-- The decode of a buffer in which a frame stands: the outcome of the frame at the junk's end, with its sub-service. -/
theorem FrameStands.decoded (h : FrameStands f b) (conf : Params) {n : Word} (hjunk : f.junk.length < 5)
    (hlong : 10 ≤ n.toNat) (hlen : f.junk.length + 7 ≤ n.toNat) :
    FrameOutcome b n f.junk.length (decodeTransaction conf b n) ∧
      (decodeTransaction conf b n).regs.sub = f.sub.code ∧
      getFlag (decodeTransaction conf b n).regs.status .subValid = true ∧
      getFlag (decodeTransaction conf b n).regs.status .unknownSub = false := by
  obtain ⟨hpass, hfirst⟩ := h.passes (len := n.toNat) (by omega)
  obtain ⟨hshort, _⟩ | ⟨_, hnone, _⟩ | ⟨s, k, x, _, hs, hpass', hfirst', hd⟩ := decodeTransaction_cases conf b n
  · omega
  · rw [hnone _ hjunk] at hpass
    cases hpass
  · have hstart : s = f.junk.length := by
      obtain hlt | heq | hgt := Nat.lt_trichotomy s f.junk.length
      · rw [hfirst s hlt] at hpass'; cases hpass'
      · exact heq
      · rw [hfirst' _ hgt] at hpass; cases hpass
    subst hstart
    have hfound := frameOf_found hs b n k x
    obtain ⟨hsub, hvalid, hunknown⟩ := telegramOf_sub conf b (i := f.sub) (by rw [hfound.startOff, hfound.len]; exact hlen)
      (by rw [hfound.startOff]; exact h.sub) (by rw [hfound.flag]; simp)
    obtain ⟨decl, acc, sum, status, hregs, hflag⟩ :=
      trailerOf_regs b (telegramOf conf b (frameOf b f.junk.length (scannedRegs n k x)))
    rw [hd]
    refine ⟨trailerOf_outcome hfound, ?_, ?_, ?_⟩
    · rw [hregs]; exact hsub
    · rw [hregs]; exact (hflag _ (by decide)).trans hvalid
    · rw [hregs]; exact (hflag _ (by decide)).trans hunknown

/-- Settles O5: the decode is the frame's at the junk's end (`FrameStands.decoded`); its sum and end marker stand where
`FrameStands` says, and so there is no diagnostic (`no_diagnostics`). -/
theorem frameRoundTrip : Obligations.FrameRoundTrip := by
  intro conf f b hwf hlong hb d
  simp only [Frame.wellFormed, Bool.and_eq_true] at hwf
  obtain ⟨⟨⟨hshort, hclean⟩, hfits⟩, hbuffer⟩ := hwf
  have hjunk : f.junk.length < 5 := of_decide_eq_true hshort
  have htotal : f.totalLength ≤ 65535 := of_decide_eq_true hbuffer
  have hn : (BitVec.ofNat 16 f.totalLength).toNat = f.totalLength := by
    rw [BitVec.toNat_ofNat, Nat.mod_eq_of_lt (by omega)]
  have hlength : f.junk.length + 7 + f.payloadLength ≤ f.totalLength := Nat.le_add_right _ _
  have hstands := frameStands_of_holds hb hclean hfits
  have htrailer : trailerAt b f.junk.length = f.junk.length + 5 + f.payloadLength := by rw [trailerAt, hstands.length]
  obtain ⟨hframe, hsub, hvalid, hunknown⟩ := hstands.decoded conf hjunk (hn.symm ▸ hlong) (by omega)
  have hend : endMarkerIn b (BitVec.ofNat 16 f.totalLength).toNat (trailerAt b f.junk.length) = true := by
    rw [endMarkerIn, hn, htrailer, fitsIn_one (by omega), hstands.endMark]
    rfl
  have hcomplete : getFlag d.regs.status .complete = true := hframe.complete.trans hend
  have hchecked : getFlag d.regs.status .csumChecked = true := by
    rw [hframe.csumChecked, hn, htrailer, decide_eq_true (by omega)]
  have hok : getFlag d.regs.status .csumOk = true := by
    rw [hframe.csumOk, hn, htrailer, decide_eq_true (by omega), hstands.sum, BEq.rfl, Bool.and_self]
  have hprefix : headerEvents b f.junk.length <+: d.events := by
    obtain ⟨es, _, hevents⟩ := hframe.events
    rw [show d.events = _ from hevents, incompleteEvents, if_pos hend, List.nil_append, List.append_assoc]
    exact List.prefix_append _ _
  exact ⟨hframe.recognized, hcomplete, hchecked, hok, hvalid, hunknown, hframe.short, hframe.startOff,
    (congrArg BitVec.toNat hframe.dlen).trans hstands.length, hframe.ctrl.trans hstands.control, hsub, hprefix,
    no_diagnostics hcomplete hok⟩

end Sys2Proof.Machine
end

section
/-!
SUPPORT. What DECODE depends on (45_orchestration.md R260; 00_scope.md R10): the bytes below LEN alone, and the two bit
layouts only in the values of FIELD events. One lemma per part of DECODE.
-/

namespace Sys2Proof.Machine

/-! ### The bytes below LEN -/

/-- Two buffers hold the same bytes below this length. -/
def Agree (b c : Nat → Byte) (len : Nat) : Prop := ∀ a, a < len → c a = b a

variable {b c : Nat → Byte} {len : Nat}

theorem Agree.beWord (h : Agree b c len) {a : Nat} (ha : a + 2 ≤ len) : beWord c a = beWord b a := by
  rw [Machine.beWord, Machine.beWord, h a (by omega), h (a + 1) (by omega)]

theorem Agree.fieldValue (h : Agree b c len) {a w : Nat} (hw : w = 1 ∨ w = 2) (ha : a + w ≤ len) :
    fieldValue c a w = fieldValue b a w := by
  obtain rfl | rfl := hw
  · rw [Machine.fieldValue, Machine.fieldValue, if_pos rfl, if_pos rfl, h a ha]
  · exact h.beWord ha

theorem sumOf_congr {a n : Nat} (h : ∀ k, a ≤ k → k < a + n → c k = b k) : sumOf c a n = sumOf b a n := by
  induction n generalizing a with
  | zero => rfl
  | succ n ih => rw [sumOf, sumOf, h a le_rfl (by omega), ih fun k hk hlt => h k (by omega) (by omega)]

/-- A guarded test reads its byte only where it is present. -/
theorem Agree.guarded (h : Agree b c len) (p : Byte → Bool) (a : Nat) :
    (fitsIn len a 1 && p (c a)) = (fitsIn len a 1 && p (b a)) := by
  cases hfits : fitsIn len a 1 with
  | false => rfl
  | true => rw [h a ((fitsIn_iff _ _ _).1 hfits)]

theorem Agree.markedAt (h : Agree b c len) (i : Nat) : markedAt c len i = markedAt b len i := by
  unfold Machine.markedAt
  rw [h.guarded (· == Config.ftStart), h.guarded (· == Config.ftStart), h.guarded (ctrlSet.contains ·)]

theorem Agree.passesAt (h : Agree b c len) (i : Nat) : passesAt c len i = passesAt b len i := by
  unfold Machine.passesAt
  rw [h.markedAt, h.guarded (· == Config.baosMain)]

theorem Agree.scanFrom (h : Agree b c len) (i n : Nat) (g : Regs) : scanFrom c len i n g = scanFrom b len i n g := by
  induction n generalizing i g with
  | zero => rfl
  | succ n ih => simp only [Machine.scanFrom, h.passesAt, h.markedAt, ih]

variable {conf : Params} {k : Kind} {sh : Shape}

theorem Agree.lengthAt (h : Agree b c len) (hshape : shapeOf conf k = some sh) {a : Nat} (ha : a + sh.size ≤ len) :
    lengthAt c sh a = lengthAt b sh a := by
  obtain ⟨_, hfield, _, _⟩ := shapeOf_fields _ _ _ hshape
  cases hlen : sh.lenField with
  | none => simp only [Machine.lengthAt, hlen]
  | some field =>
    obtain ⟨off, w⟩ := field
    obtain ⟨hfits, hw⟩ := hfield off w hlen
    simp only [Machine.lengthAt, hlen]
    rw [h.fieldValue hw (by omega)]

theorem Agree.leadPart (h : Agree b c len) (hshape : shapeOf conf k = some sh) {a : Nat} (ha : a + sh.size ≤ len) :
    leadPart c sh a = leadPart b sh a := by
  obtain ⟨hlead, _⟩ := shapeOf_fields _ _ _ hshape
  refine List.flatMap_congr fun f hf => ?_
  obtain ⟨hfits, hw⟩ := hlead f hf
  rw [h.fieldValue hw (by omega)]

theorem Agree.viewPart (h : Agree b c len) (hshape : shapeOf conf k = some sh) (table : List (Nat × ViewType)) {a n : Nat}
    (ha : a + sh.size + n ≤ len) : viewPart c table sh a n = viewPart b table sh a n := by
  obtain ⟨_, _, htyped, _⟩ := shapeOf_fields _ _ _ hshape
  unfold Machine.viewPart
  split
  next hty =>
    have hsize := htyped hty
    rw [h.beWord (by omega)]
    cases hview : appliedView table (Machine.beWord b a).toNat n with
    | none => rfl
    | some v => simp only [h.fieldValue (appliedView_width _ _ _ _ hview) ha]
  next => rfl

theorem Agree.recordRead (h : Agree b c len) (hshape : shapeOf conf k = some sh) (table : List (Nat × ViewType))
    {d : Decoded} (hfits : d.regs.cur.toNat + sh.size + Machine.lengthAt b sh d.regs.cur.toNat ≤ len) :
    recordRead c table sh d = recordRead b table sh d := by
  unfold Machine.recordRead
  dsimp only
  rw [h.lengthAt hshape (by omega), h.leadPart hshape (by omega), h.viewPart hshape table hfits]

theorem Agree.recordLoop (h : Agree b c len) (hshape : shapeOf conf k = some sh) (table : List (Nat × ViewType))
    (n : Nat) (d : Decoded) : recordLoop c table len sh n d = recordLoop b table len sh n d := by
  induction n generalizing d with
  | zero => rfl
  | succ n ih =>
    rw [recordLoop_succ, recordLoop_succ]
    by_cases hprefix : fitsIn len d.regs.cur.toNat sh.size = true
    · have hsize := (fitsIn_iff _ _ _).1 hprefix
      rw [if_pos hprefix, if_pos hprefix, h.lengthAt hshape hsize, h.leadPart hshape hsize]
      by_cases hdata : fitsIn len (d.regs.cur.toNat + sh.size) (Machine.lengthAt b sh d.regs.cur.toNat) = true
      · rw [if_pos hdata, if_pos hdata, h.recordRead hshape table ((fitsIn_iff _ _ _).1 hdata), ih]
      · rw [if_neg hdata, if_neg hdata]
    · rw [if_neg hprefix, if_neg hprefix]

theorem Agree.selectPart (h : Agree b c len) (conf : Params) (m : MuxOut) (d : Decoded) :
    selectPart conf c len m d = selectPart conf b len m d := by
  rw [selectPart_eq, selectPart_eq]
  cases selectionOf m d.regs.count with
  | nothing => rfl
  | errorCode =>
    simp only [errorCodePart]
    split
    next hfits => rw [h _ ((fitsIn_iff _ _ _).1 hfits)]
    next => rfl
  | filter =>
    simp only [filterPart]
    split
    next hfits => rw [h _ ((fitsIn_iff _ _ _).1 hfits)]
    next => rfl
  | records =>
    dsimp only [recordsPart]
    cases hshape : shapeOf conf m.kind with
    | none => rfl
    | some sh => exact h.recordLoop hshape _ _ d

theorem Agree.bodyOf {d : Decoded} (h : Agree b c d.regs.len.toNat) (conf : Params) (m : MuxOut) :
    bodyOf conf c m d = bodyOf conf b m d := by
  unfold Machine.bodyOf
  split
  next hfits =>
    have hid : startIdRead c m d = startIdRead b m d := by
      simp only [startIdRead, h.beWord ((fitsIn_iff _ _ _).1 hfits)]
    rw [hid]
    unfold countOf
    split
    next hfits' =>
      have hcount : countRead c (startIdRead b m d) = countRead b (startIdRead b m d) := by
        simp only [countRead]
        rw [h.beWord ((fitsIn_iff _ _ _).1 hfits')]
      rw [hcount]
      exact h.selectPart conf m _
    next => rfl
  next => rfl

theorem Agree.telegramOf {d : Decoded} (h : Agree b c d.regs.len.toNat) (conf : Params) :
    telegramOf conf c d = telegramOf conf b d := by
  rw [telegramOf_eq, telegramOf_eq]
  split
  next hfits =>
    have hsub : subRead c d = subRead b d := by simp only [subRead, h _ ((fitsIn_iff _ _ _).1 hfits)]
    rw [hsub]
    unfold dispatchOf
    dsimp only
    split
    · rfl
    · exact Agree.bodyOf (d := (subRead b d).setRegs { (subRead b d).regs with kind := _ }) h conf _
  next => rfl

theorem Agree.trailerOf {d : Decoded} (h : Agree b c d.regs.len.toNat) : trailerOf c d = trailerOf b d := by
  unfold Machine.trailerOf
  by_cases hin : d.regs.toff.toNat < d.regs.len.toNat
  · have hsum : frameSumAt c d.regs.startOff.toNat d.regs.toff.toNat =
        frameSumAt b d.regs.startOff.toNat d.regs.toff.toNat :=
      sumOf_congr fun k hk hlt => h k (by omega)
    have hend : endMarkEvents c d.regs.len.toNat d.regs.toff.toNat =
        endMarkEvents b d.regs.len.toNat d.regs.toff.toNat := by
      unfold endMarkEvents
      split
      next hlt => rw [h _ hlt]
      next => rfl
    rw [trailerPart_present c d hin, trailerPart_present b d hin, hsum, hend, h _ hin]
  · rw [trailerPart_absent c d (Nat.not_lt.1 hin), trailerPart_absent b d (Nat.not_lt.1 hin)]

theorem Agree.headerEvents (h : Agree b c len) {s : Nat} (hs : s + 6 ≤ len) : headerEvents c s = headerEvents b s := by
  refine List.mapIdx_eq_mapIdx_iff.2 fun k hk => ?_
  have hk6 : k < 6 := hk
  rw [h (s + k) (by omega)]

theorem Agree.verifyPart {d : Decoded} (h : Agree b c d.regs.len.toNat) : verifyPart c d = verifyPart b d := by
  have hend : endMarkerIn c d.regs.len.toNat d.regs.declaredEnd = endMarkerIn b d.regs.len.toNat d.regs.declaredEnd :=
    h.guarded (· == Config.ftEnd) _
  simp only [Machine.verifyPart, hend]

theorem Agree.acceptedAt (h : Agree b c len) {s : Nat} (hs : s + 6 ≤ len) (g : Regs) :
    acceptedAt c s g = acceptedAt b s g := by
  rw [Machine.acceptedAt, Machine.acceptedAt, h (s + 1) (by omega), h (s + 4) (by omega)]

/-- What follows the locator's answer, whose frame has at least six bytes. -/
theorem Agree.locatedPart {n : Word} (h : Agree b c n.toNat) (conf : Params) (d : Decoded) {p : Option Nat × Regs}
    (hlen : p.2.len = n) (hr : ∀ s, p.1 = some s → s + 6 ≤ n.toNat) :
    locatedPart conf c d p = locatedPart conf b d p := by
  obtain ⟨r, g⟩ := p
  subst hlen
  cases r with
  | none => rfl
  | some s =>
    have hs := hr s rfl
    have hframe : (Machine.verifyPart b (d.setRegs (Machine.acceptedAt b s g))).regs.len = g.len := by
      rw [verifyPart_regs]; rfl
    have htelegram := (telegramOf_runs conf b
      ((Machine.verifyPart b (d.setRegs (Machine.acceptedAt b s g))).emit (Machine.headerEvents b s))).len
    simp only [Machine.locatedPart]
    rw [h.acceptedAt hs, h.headerEvents hs,
      Agree.verifyPart (d := d.setRegs (Machine.acceptedAt b s g)) h, Agree.telegramOf (d := Decoded.emit _ _) ?_,
      Agree.trailerOf]
    · rw [htelegram]
      change Agree b c (Machine.verifyPart b (d.setRegs (Machine.acceptedAt b s g))).regs.len.toNat
      rw [hframe]
      exact h
    · change Agree b c (Machine.verifyPart b (d.setRegs (Machine.acceptedAt b s g))).regs.len.toNat
      rw [hframe]
      exact h

/-- DECODE reads no byte at or beyond LEN. -/
theorem decodeTransaction_congr {n : Word} (h : Agree b c n.toNat) (conf : Params) :
    decodeTransaction conf c n = decodeTransaction conf b n := by
  obtain ⟨k, f, hregs⟩ := scanFrom_regs b n.toNat 0 5 (startRegs n)
  rw [decodeTransaction_eq, decodeTransaction_eq, h.scanFrom]
  split
  · rfl
  · refine h.locatedPart conf _ (by rw [hregs]; rfl) fun s hs => ?_
    obtain ⟨_, _, hpass, _⟩ := scanFrom_some hs
    exact passesAt_fits hpass

/-! ### The configuration -/

/-- An event without the value of a FIELD event. -/
def withoutValue (w : Wires) : Wires := { w with val := if w.diag then w.val else 0 }

/-- The registers are the same, and where `P` holds so are the events but for the values of FIELD events. -/
structure SameBut (P : Prop) (d d' : Decoded) : Prop where
  regs : d'.regs = d.regs
  events : P → d'.events.map withoutValue = d.events.map withoutValue

/-- Record shapes that differ in the bits of sub-fields alone. -/
structure SameFields (sh sh' : Shape) : Prop where
  size : sh'.size = sh.size
  lenField : sh'.lenField = sh.lenField
  varTag : sh'.varTag = sh.varTag
  typed : sh'.typed = sh.typed
  lead : ∀ b a, (leadPart b sh' a).map withoutValue = (leadPart b sh a).map withoutValue

/-- A configuration gives the bits of sub-fields alone to the record shapes (R206, R231, R236). -/
theorem shapeOf_configs (conf other : Params) (k : Kind) :
    (shapeOf conf k = none ∧ shapeOf other k = none) ∨
      ∃ sh sh', shapeOf conf k = some sh ∧ shapeOf other k = some sh' ∧ SameFields sh sh' := by
  cases k with
  | none | hdrReq | hdrRes | hdrFilter => exact .inl ⟨rfl, rfl⟩
  | serverItems | dpValueCmd | dpValueState | dpDescriptor | descString | paramByte =>
    exact .inr ⟨_, _, rfl, rfl, rfl, rfl, rfl, rfl, fun _ _ => rfl⟩

variable {P : Prop} {d d' : Decoded}

theorem SameBut.refl (P : Prop) (d : Decoded) : SameBut P d d := ⟨rfl, fun _ => rfl⟩

/-- The same write to both. -/
theorem SameBut.write (h : SameBut P d d') (g : Regs → Regs) (es : List Wires) :
    SameBut P { regs := g d.regs, events := d.events ++ es } { regs := g d'.regs, events := d'.events ++ es } :=
  ⟨congrArg g h.regs, fun hP => by rw [List.map_append, List.map_append, h.events hP]⟩

theorem SameBut.setRegs (h : SameBut P d d') (g : Regs → Regs) : SameBut P (d.setRegs (g d.regs)) (d'.setRegs (g d'.regs)) :=
  ⟨congrArg g h.regs, h.events⟩

theorem SameBut.truncated (h : SameBut P d d') : SameBut P (d.setStatus .trunc) (d'.setStatus .trunc) :=
  h.setRegs (·.flagged .trunc)

variable {sh sh' : Shape} {table table' : List (Nat × ViewType)}

theorem SameFields.lengthAt (h : SameFields sh sh') (b : Nat → Byte) (a : Nat) : lengthAt b sh' a = lengthAt b sh a := by
  rw [Machine.lengthAt, Machine.lengthAt, h.lenField]

theorem SameFields.recordRead (h : SameFields sh sh') (htable : P → table' = table) (b : Nat → Byte)
    (hd : SameBut P d d') : SameBut P (recordRead b table sh d) (recordRead b table' sh' d') := by
  refine ⟨?_, fun hP => ?_⟩
  · simp only [Machine.recordRead, hd.regs, h.size, h.lengthAt]
  · simp only [Machine.recordRead, List.map_append, hd.events hP, hd.regs, h.lead, h.lengthAt, variableEvents, h.varTag,
      Machine.viewPart, h.typed, h.size, htable hP]

theorem SameFields.recordLoop (h : SameFields sh sh') (htable : P → table' = table) (b : Nat → Byte) (len n : Nat)
    (hd : SameBut P d d') : SameBut P (recordLoop b table len sh n d) (recordLoop b table' len sh' n d') := by
  induction n generalizing d d' with
  | zero => exact hd
  | succ n ih =>
    rw [recordLoop_succ, recordLoop_succ, hd.regs, h.size, h.lengthAt]
    split
    · split
      · exact ih (h.recordRead htable b hd)
      · refine SameBut.truncated ⟨hd.regs, fun hP => ?_⟩
        simp only [Decoded.emit, List.map_append, hd.events hP, h.lead]
    · exact hd.truncated

theorem SameBut.selectPart {conf other : Params} (hd : SameBut (other.siType = conf.siType) d d') (b : Nat → Byte)
    (len : Nat) (m : MuxOut) :
    SameBut (other.siType = conf.siType) (selectPart conf b len m d) (selectPart other b len m d') := by
  rw [selectPart_eq, selectPart_eq, hd.regs]
  cases selectionOf m d.regs.count with
  | nothing => exact hd
  | errorCode =>
    simp only [errorCodePart, hd.regs]
    split
    · exact hd.write (fun _ => _) _
    · exact hd.truncated
  | filter =>
    simp only [filterPart, hd.regs]
    split
    · exact hd.write id _
    · exact hd.truncated
  | records =>
    dsimp only [recordsPart]
    obtain ⟨h, h'⟩ | ⟨sh, sh', h, h', hfields⟩ := shapeOf_configs conf other m.kind
    · rw [h, h']; exact hd
    · rw [h, h']; exact hfields.recordLoop id b len _ hd

theorem SameBut.selectOf {conf other : Params} (hd : SameBut (other.siType = conf.siType) d d') (b : Nat → Byte)
    (m : MuxOut) : SameBut (other.siType = conf.siType) (selectOf conf b m d) (selectOf other b m d') := by
  have hlen : d'.regs.len = d.regs.len := by rw [hd.regs]
  rw [Machine.selectOf, Machine.selectOf, hlen]
  exact (hd.setRegs Regs.selected).selectPart b _ m

theorem SameBut.bodyOf {conf other : Params} (hd : SameBut (other.siType = conf.siType) d d') (b : Nat → Byte)
    (m : MuxOut) : SameBut (other.siType = conf.siType) (bodyOf conf b m d) (bodyOf other b m d') := by
  have hid : SameBut (other.siType = conf.siType) (startIdRead b m d) (startIdRead b m d') := by
    simp only [startIdRead, hd.regs]
    exact hd.write (fun _ => _) _
  have hcount : SameBut (other.siType = conf.siType) (countRead b (startIdRead b m d)) (countRead b (startIdRead b m d')) := by
    simp only [countRead, hid.regs]
    exact hid.write (fun _ => _) _
  unfold Machine.bodyOf countOf
  rw [hd.regs, hid.regs]
  split
  · split
    · exact hcount.selectOf b m
    · exact hid.truncated
  · exact hd.truncated

theorem SameBut.telegramOf (conf other : Params) (b : Nat → Byte) (d : Decoded) :
    SameBut (other.siType = conf.siType) (telegramOf conf b d) (telegramOf other b d) := by
  rw [telegramOf_eq, telegramOf_eq]
  split
  · unfold dispatchOf
    dsimp only
    split
    · exact .refl _ _
    · exact SameBut.bodyOf (.refl _ _) b _
  · exact .refl _ _

/-- The trailer's work depends on the registers alone. -/
theorem SameBut.trailerOf (h : SameBut P d d') (b : Nat → Byte) : SameBut P (trailerOf b d) (trailerOf b d') := by
  unfold Machine.trailerOf
  rw [h.regs]
  by_cases hin : d.regs.toff.toNat < d.regs.len.toNat
  · rw [trailerPart_present b d hin, trailerPart_present b d' hin, h.regs]
    simp only [List.append_assoc]
    exact h.write (fun _ => _) _
  · rw [trailerPart_absent b d (Nat.not_lt.1 hin), trailerPart_absent b d' (Nat.not_lt.1 hin)]
    exact h.setRegs fun g => { g with status := statusAtDone g.status }

/-- DECODE under two configurations: only the telegram looks at them. -/
theorem decodeTransaction_configs (conf other : Params) (b : Nat → Byte) (n : Word) :
    SameBut (other.siType = conf.siType) (decodeTransaction conf b n) (decodeTransaction other b n) := by
  rw [decodeTransaction_eq, decodeTransaction_eq]
  split
  · exact .refl _ _
  · cases scanFrom b n.toNat 0 5 (startRegs n) with
    | mk r g =>
      cases r with
      | none => exact .refl _ _
      | some s => exact (SameBut.telegramOf conf other b _).trailerOf b

/-- Settles O53: `decodeTransaction_congr` and `decodeTransaction_configs`. -/
theorem outcomeDependsOnBuffer : Obligations.OutcomeDependsOnBuffer := by
  refine ⟨fun conf b c n h => decodeTransaction_congr h conf, fun conf other b n => ?_⟩
  have hsame := decodeTransaction_configs conf other b n
  exact ⟨hsame.regs, hsame.events⟩

end Sys2Proof.Machine
end

section
/-!
SUPPORT. The simulation behind R276: at every position of a transaction, what DECODE still does from there. Each case of a
unit of work does the first part of it, so what DECODE makes of the registers and the events so far never changes.
-/

namespace Sys2Proof.Machine

/-! ### What DECODE does from a position on -/

section Rest

variable (conf : Params) (b : Nat → Byte) (m : MuxOut)

/-- The records that are left (R206). -/
def recordRest (d : Decoded) : Decoded :=
  recordsPart conf b d.regs.len.toNat m (d.regs.count.toNat - d.regs.idx.toNat) d

/-- The advance over a record with a variable part of length `n`, and the records after it (R209). -/
def advanceRest (sh : Shape) (n : Nat) (d : Decoded) : Decoded :=
  recordRest conf b m (d.setRegs (d.regs.advanced (sh.size + n)))

/-- The typed view of a variable part of length `n`, and what follows (R225). -/
def viewRest (sh : Shape) (n : Nat) (d : Decoded) : Decoded :=
  advanceRest conf b m sh n (d.emit (viewPart b conf.siType sh d.regs.cur.toNat n))

/-- The variable part's guard and event, and what follows (R208). -/
def varRest (sh : Shape) (d : Decoded) : Decoded :=
  let c := d.regs.cur.toNat
  if fitsIn d.regs.len.toNat (c + sh.size) (lengthAt b sh c) then
    viewRest conf b m sh (lengthAt b sh c) (d.emit (variableEvents sh c (lengthAt b sh c)))
  else d.setStatus .trunc

/-- The leading part's fields from `k` on, and what follows (R250). -/
def leadRest (sh : Shape) (k : Nat) (d : Decoded) : Decoded :=
  varRest conf b m sh (d.emit ((sh.lead.drop k).flatMap fun f =>
    leadEvents f d.regs.cur.toNat (fieldValue b (d.regs.cur.toNat + f.off) f.width)))

/-- At a position inside a record; a kind without records has nothing left there. -/
def loopRest (rest : Shape → Decoded → Decoded) (d : Decoded) : Decoded :=
  match shapeOf conf m.kind with
  | some sh => rest sh d
  | none => d

/-- What is left of a body. -/
def bodyRest : BodyPos → Decoded → Decoded
  | .listHeader => bodyOf conf b m
  | .countField => countOf conf b m
  | .select => selectOf conf b m
  | .record => recordRest conf b m
  | .lead k => loopRest conf m (leadRest conf b m · k)
  | .varPart => loopRest conf m (varRest conf b m ·)
  | .view n => loopRest conf m (viewRest conf b m · n)
  | .advance n => loopRest conf m (advanceRest conf b m · n)
  | .leave => id

/-- What is left of the payload phase: the rest of the body that SUB selects, if it selects one (R170, R172). -/
def payloadRest (p : BodyPos) (d : Decoded) : Decoded :=
  match decodeSub d.regs.sub with
  | .ok i => bodyRest conf b (dispatch i.code) p d
  | .error _ => d

/-- The sub-service byte and what follows it. Where the byte is absent the payload phase looks at SUB all the same. -/
def subRest (d : Decoded) : Decoded :=
  if fitsIn d.regs.len.toNat (d.regs.startOff.toNat + 6) 1 then dispatchOf conf b (subRead b d)
  else payloadRest conf b .listHeader (d.setStatus .trunc)

/-- What is left of HEADER_DECODED and of the telegram. -/
def headerRest : HeaderPos → Decoded → Decoded
  | .field k, d => subRest conf b (d.emit ((headerEvents b d.regs.startOff.toNat).drop k))
  | .sub, d => subRest conf b d
  | .dispatch, d => dispatchOf conf b d
  | .leave, d => payloadRest conf b .listHeader d

/-- What is left of the trailer phase. -/
def trailerRest : TrailerPos → Decoded → Decoded
  | .declared, d => trailerOf b d
  | .compare, d =>
    let t := d.regs.toff.toNat
    let computed := frameSumAt b d.regs.startOff.toNat t
    finishPart {
      regs := { d.regs with
        csumAcc := computed, csumCalc := computed
        status := setFlagIf (computed == d.regs.csumDecl) (setFlag d.regs.status .csumChecked) .csumOk }
      events := d.events ++ mismatchEvents computed d.regs.csumDecl ++ endMarkEvents b d.regs.len.toNat t }
  | .endMark, d => finishPart (d.emit (endMarkEvents b d.regs.len.toNat d.regs.toff.toNat))
  | .leave, d => finishPart d

/-- What is left of FOUND_FRAME, of the telegram and of the trailer. -/
def foundRest : FoundPos → Decoded → Decoded
  | .verify, d => trailerOf b (headerRest conf b (.field 0) (verifyPart b d))
  | .leave, d => trailerOf b (headerRest conf b (.field 0) d)

/-- What is left once the locator's loop has answered. -/
def scanAnswer (ev : List Wires) : Option Nat × Regs → Decoded
  | (none, g) => finishPart { regs := g, events := ev }
  | (some s, g) => foundRest conf b .verify { regs := acceptedAt b s g, events := ev }

/-- What is left of SCANNING, from candidate SCAN_I on, and of the frame it finds. -/
def scanRest (d : Decoded) : Decoded :=
  if d.regs.len.toNat < 10 then finishPart (d.setStatus .short)
  else scanAnswer conf b d.events (scanFrom b d.regs.len.toNat d.regs.scanI.toNat (5 - d.regs.scanI.toNat) d.regs)

/-- What DECODE does from a position on, to the registers there and the events so far. -/
def decodeRest : Pos → Decoded → Decoded
  | .idle, d => d
  | .scanning, d => scanRest conf b d
  | .foundFrame p, d => foundRest conf b p d
  | .header p, d => trailerOf b (headerRest conf b p d)
  | .payload p, d => trailerOf b (payloadRest conf b p d)
  | .trailer p, d => trailerRest b p d
  | .done, d => d

end Rest

/-! ### From SCANNING on it is DECODE -/

variable {conf : Params} {b : Nat → Byte}

/-- SUB is 0 before it is read, which selects no sub-service. -/
theorem subRest_eq {d : Decoded} (h : d.regs.sub = 0) : subRest conf b d = telegramOf conf b d := by
  rw [telegramOf_eq, subRest]
  split
  · rfl
  · have hsub : decodeSub (d.setStatus .trunc).regs.sub = .error (.unknownSub 0) := by
      rw [show (d.setStatus .trunc).regs.sub = 0 from h]
      rfl
    rw [payloadRest, hsub]

/-- From its acceptance on a frame is decoded as DECODE has it (R265, R266). -/
theorem foundRest_accepted {s : Nat} (hs : s < 5) (n : Word) (k : BitVec 3) (f : Bool) :
    foundRest conf b .verify { regs := acceptedAt b s (scannedRegs n k f), events := [] } =
      trailerOf b (telegramOf conf b (frameOf b s (scannedRegs n k f))) := by
  obtain ⟨_, _, hsub, _⟩ := frameOf_regs (n := n) b s k f
  have hstart : (verifyPart b { regs := acceptedAt b s (scannedRegs n k f), events := [] }).regs.startOff.toNat = s := by
    rw [verifyPart_regs]
    exact acceptedAt_startOff hs b (scannedRegs n k f)
  rw [foundRest, headerRest, hstart, List.drop_zero, ← frameOf, subRest_eq hsub]

theorem decodeRest_start (conf : Params) (b : Nat → Byte) (n : Word) :
    decodeRest conf b .scanning { regs := startRegs n, events := [] } = decodeTransaction conf b n := by
  rw [decodeTransaction_eq, decodeRest, scanRest]
  by_cases hshort : n.toNat < 10
  · rw [if_pos hshort]
    exact if_pos hshort
  · rw [if_neg hshort]
    refine (if_neg hshort).trans ?_
    have hsome := @scanFrom_some b n.toNat 0 5
    obtain ⟨k, f, hregs⟩ := scanFrom_regs b n.toNat 0 5 (startRegs n)
    change scanAnswer conf b [] (scanFrom b n.toNat 0 5 (startRegs n)) = _
    cases hscan : scanFrom b n.toNat 0 5 (startRegs n) with
    | mk r g =>
      obtain rfl : g = scannedRegs n k f := (congrArg Prod.snd hscan).symm.trans hregs
      cases r with
      | none => rfl
      | some s =>
        obtain ⟨_, hs, _⟩ := hsome (congrArg Prod.fst hscan)
        exact foundRest_accepted (by omega) n k f

/-! ### The record loop, one step at a time -/

variable {m : MuxOut} {sh : Shape} {d : Decoded}

theorem recordRest_of_end (h : d.regs.count.toNat ≤ d.regs.idx.toNat) : recordRest conf b m d = d := by
  rw [recordRest, Nat.sub_eq_zero_of_le h, recordsPart]
  cases shapeOf conf m.kind <;> rfl

/-- The loop's next record (R206, R207). -/
theorem recordRest_of_left (hshape : shapeOf conf m.kind = some sh) (h : d.regs.idx.toNat < d.regs.count.toNat) :
    recordRest conf b m d =
      if fitsIn d.regs.len.toNat d.regs.cur.toNat sh.size then leadRest conf b m sh 0 d else d.setStatus .trunc := by
  obtain ⟨left, hleft⟩ := Nat.exists_eq_add_of_lt h
  have hcount : d.regs.count.toNat < 2 ^ 16 := d.regs.count.isLt
  have hidx : (d.regs.idx + 1).toNat = d.regs.idx.toNat + 1 := by
    rw [BitVec.toNat_add, Nat.mod_eq_of_lt]
    · rfl
    · change d.regs.idx.toNat + 1 < 2 ^ 16
      omega
  have hmore : d.regs.count.toNat - d.regs.idx.toNat = left + 1 := by omega
  have hrest : d.regs.count.toNat - (d.regs.idx + 1).toNat = left := by omega
  rw [recordRest, recordsPart, hshape, hmore]
  dsimp only
  rw [recordLoop_succ]
  split
  · rw [leadRest, List.drop_zero, ← leadPart, varRest]
    change _ = if fitsIn d.regs.len.toNat (d.regs.cur.toNat + sh.size) (lengthAt b sh d.regs.cur.toNat) then _ else _
    split
    · rw [viewRest, advanceRest, recordRest, recordsPart, hshape]
      change _ = recordLoop b conf.siType d.regs.len.toNat sh (d.regs.count.toNat - (d.regs.idx + 1).toNat) _
      rw [hrest, recordRead]
      simp only [Decoded.emit, Decoded.setRegs, List.append_assoc]
    · rfl
  · rfl

/-- The selection at P+6 (R203, R204, R217). -/
theorem selectOf_eq (conf : Params) (b : Nat → Byte) (m : MuxOut) (d : Decoded) :
    selectOf conf b m d = match selectionOf m d.regs.count with
      | .nothing => d.setRegs d.regs.selected
      | .errorCode =>
        let a := d.regs.startOff.toNat + 11
        if a < d.regs.len.toNat then
          (d.setRegs { d.regs.selected with errcode := b a, status := setFlag d.regs.status .errcodeValid }).emit
            [fieldEvent a 1 .errorCode ((b a).setWidth 16)]
        else (d.setRegs d.regs.selected).setStatus .trunc
      | .filter =>
        let a := d.regs.startOff.toNat + 11
        if a < d.regs.len.toNat then
          (d.setRegs d.regs.selected).emit [fieldEvent a 1 .dpFilter ((b a).setWidth 16)]
        else (d.setRegs d.regs.selected).setStatus .trunc
      | .records => recordRest conf b m (d.setRegs d.regs.selected) := by
  have hcur : (d.setRegs d.regs.selected).regs.cur.toNat = d.regs.startOff.toNat + 11 := d.regs.selected_cur_toNat
  rw [selectOf, selectPart_eq]
  change (match selectionOf m d.regs.count with | .nothing => _ | .errorCode => _ | .filter => _ | .records => _) = _
  cases selectionOf m d.regs.count with
  | nothing => rfl
  | errorCode =>
    simp only [errorCodePart, hcur, fitsIn_iff, Nat.succ_le_iff]
    rfl
  | filter => simp only [filterPart, hcur, fitsIn_iff, Nat.succ_le_iff]
  | records => rfl

/-! ### A unit does the first part of what is left -/

/-- The state's configuration is this one, and its buffer holds these bytes below LEN, however often they are read. -/
structure Reads (s : State) (conf : Params) (b : Nat → Byte) : Prop where
  params : s.params = conf
  agree : Agree b s.byteAt s.regs.len.toNat
  again : ∀ a, a < s.regs.len.toNat → s.byteAgain a = b a

variable {s : State} {q : Pos} {g : Regs} {es : List Wires} {ev : List Wires}

theorem decodeRest_payload {i : Instr} (p : BodyPos) {g : Regs} (hsub : decodeSub g.sub = .ok i) (ev : List Wires) :
    decodeRest conf b (.payload p) { regs := g, events := ev } =
      trailerOf b (bodyRest conf b (dispatch i.code) p { regs := g, events := ev }) := by
  rw [decodeRest, payloadRest, hsub]

theorem loopRest_of_shape (hshape : shapeOf conf m.kind = some sh) (rest : Shape → Decoded → Decoded) (d : Decoded) :
    loopRest conf m rest d = rest sh d := by
  rw [loopRest, hshape]

/-- One position further inside a body, or at its end. -/
def bodyAfter (conf : Params) (b : Nat → Byte) (m : MuxOut) (q : Pos) (d : Decoded) : Decoded :=
  match q with
  | .payload p => bodyRest conf b m p d
  | _ => d

/-- A body's unit does the first part of what is left of the body. -/
theorem BodyCase.rest {p : BodyPos} (h : BodyCase m s p q g es) (hr : Reads s conf b)
    (hfits : ∀ sh, shapeOf conf m.kind = some sh → p = .varPart → s.regs.cur.toNat + sh.size ≤ s.regs.len.toNat)
    (hview : ∀ sh n, shapeOf conf m.kind = some sh → p = .view n →
      s.regs.cur.toNat + sh.size + n ≤ s.regs.len.toNat) (ev : List Wires) :
    bodyAfter conf b m q { regs := g, events := ev ++ es } = bodyRest conf b m p { regs := s.regs, events := ev } := by
  obtain ⟨rfl, hagree, _⟩ := hr
  cases h with
  | startId hlen =>
    have hv : beWord s.byteAt (s.payloadStart + 2) = beWord b (s.regs.startOff.toNat + 7) := hagree.beWord hlen
    rw [hv]
    exact (if_pos ((fitsIn_iff _ _ _).2 hlen)).symm
  | startIdAbsent hlen =>
    rw [List.append_nil]
    exact (if_neg fun hfit => Nat.not_lt.2 ((fitsIn_iff _ _ _).1 hfit) hlen).symm
  | count hlen =>
    have hv : beWord s.byteAt (s.payloadStart + 4) = beWord b (s.regs.startOff.toNat + 9) := hagree.beWord hlen
    rw [hv]
    exact (if_pos ((fitsIn_iff _ _ _).2 hlen)).symm
  | countAbsent hlen =>
    rw [List.append_nil]
    exact (if_neg fun hfit => Nat.not_lt.2 ((fitsIn_iff _ _ _).1 hfit) hlen).symm
  | selectNothing hsel | selectRecords hsel =>
    refine Eq.trans ?_ (selectOf_eq _ b m _).symm
    simp only [hsel, List.append_nil]
    rfl
  | errorCode hsel hlen | filter hsel hlen =>
    refine Eq.trans ?_ (selectOf_eq _ b m _).symm
    rw [hagree _ hlen]
    simp only [hsel, hlen, if_true]
    rfl
  | selectAbsent hsel hlen =>
    refine Eq.trans ?_ (selectOf_eq _ b m _).symm
    obtain hsel | hsel := hsel <;> simp only [hsel, Nat.not_lt.2 hlen, if_false, List.append_nil] <;> rfl
  | noRecords p hshape hloop =>
    rw [List.append_nil]
    cases p with
    | listHeader | countField | select | leave => cases hloop
    | record => rw [bodyRest, recordRest, recordsPart, hshape]; rfl
    | lead | varPart | view | advance => rw [bodyRest, loopRest, hshape]; rfl
  | recordsEnd hend =>
    rw [List.append_nil]
    exact (recordRest_of_end hend).symm
  | recordFits sh hshape hleft hlen =>
    rw [List.append_nil]
    refine Eq.trans ?_ (recordRest_of_left hshape hleft).symm
    rw [if_pos ((fitsIn_iff _ _ _).2 hlen)]
    exact loopRest_of_shape hshape _ _
  | recordAbsent sh hshape hleft hlen =>
    rw [List.append_nil]
    refine Eq.trans ?_ (recordRest_of_left hshape hleft).symm
    rw [if_neg fun hfit => Nat.not_lt.2 ((fitsIn_iff _ _ _).1 hfit) hlen]
    rfl
  | lead sh k f hshape hfield hlen =>
    obtain ⟨hlead, _⟩ := shapeOf_fields _ _ _ hshape
    have hv := hagree.fieldValue (hlead f (List.mem_of_getElem? hfield)).2 hlen
    have hdrop : sh.lead.drop k = f :: sh.lead.drop (k + 1) := by
      obtain ⟨hk, hf⟩ := List.getElem?_eq_some_iff.1 hfield
      rw [List.drop_eq_getElem_cons hk, hf]
    rw [hv]
    simp only [bodyAfter, bodyRest, loopRest_of_shape hshape, leadRest, hdrop, List.flatMap_cons, Decoded.emit,
      List.append_assoc]
  | leadEnd sh k hshape hfield =>
    have hdrop : sh.lead.drop k = [] := List.drop_eq_nil_of_le (List.getElem?_eq_none_iff.1 hfield)
    simp only [bodyAfter, bodyRest, loopRest_of_shape hshape, leadRest, hdrop, List.flatMap_nil, Decoded.emit]
  | rawData sh hshape hlen =>
    have hn := hagree.lengthAt hshape (hfits sh hshape rfl)
    rw [hn] at hlen ⊢
    simp only [bodyAfter, bodyRest, loopRest_of_shape hshape]
    exact (if_pos ((fitsIn_iff _ _ _).2 hlen)).symm
  | rawDataAbsent sh hshape hlen =>
    have hn := hagree.lengthAt hshape (hfits sh hshape rfl)
    rw [hn] at hlen
    simp only [bodyAfter, bodyRest, loopRest_of_shape hshape, List.append_nil]
    exact (if_neg fun hfit => Nat.not_lt.2 ((fitsIn_iff _ _ _).1 hfit) hlen).symm
  | view sh n hshape _ =>
    rw [hagree.viewPart hshape _ (hview sh n hshape rfl)]
    simp only [bodyAfter, bodyRest, loopRest_of_shape hshape]
    rfl
  | advance sh n hshape =>
    simp only [bodyAfter, bodyRest, loopRest_of_shape hshape, List.append_nil]
    rfl
  | leave => rw [List.append_nil]; rfl

theorem headerEvents_drop {k : Nat} {tag : Tag} (htag : headerTags[k]? = some tag) (b : Nat → Byte) (a : Nat) :
    (headerEvents b a).drop k =
      fieldEvent (a + k) 1 tag ((b (a + k)).setWidth 16) :: (headerEvents b a).drop (k + 1) := by
  obtain ⟨hk, hget⟩ := List.getElem?_eq_some_iff.1 htag
  have hlen : k < (headerEvents b a).length := by rw [headerEvents, List.length_mapIdx]; exact hk
  rw [List.drop_eq_getElem_cons hlen]
  simp only [headerEvents, List.getElem_mapIdx, hget]

theorem HeaderCase.rest {p : HeaderPos} (h : HeaderCase s p q g es) (hr : Reads s conf b) (ev : List Wires) :
    decodeRest conf b q { regs := g, events := ev ++ es } =
      trailerOf b (headerRest conf b p { regs := s.regs, events := ev }) := by
  cases h with
  | field k tag htag hlen =>
    rw [hr.agree _ hlen, decodeRest, headerRest, headerRest, headerEvents_drop htag]
    simp only [Decoded.emit, List.append_assoc]
    rfl
  | fieldsEnd k htag =>
    have hdrop : (headerEvents b s.regs.startOff.toNat).drop k = [] := List.drop_eq_nil_of_le (by
      rw [headerEvents, List.length_mapIdx]
      exact List.getElem?_eq_none_iff.1 htag)
    rw [decodeRest, headerRest, headerRest, hdrop]
    rfl
  | sub hlen =>
    have hsub : s.byteAt (s.payloadStart + 1) = b (s.regs.startOff.toNat + 6) := hr.agree _ hlen
    rw [hsub, decodeRest, headerRest, headerRest, subRest, if_pos (fitsIn_one (show s.regs.startOff.toNat + 6 < _ from hlen))]
    rfl
  | subAbsent hlen =>
    rw [decodeRest, headerRest, headerRest, subRest,
      fitsIn_one_false (show s.regs.len.toNat ≤ s.regs.startOff.toNat + 6 from hlen), List.append_nil]
    rfl
  | dispatched hkind =>
    cases hsub : decodeSub s.regs.sub with
    | error e => exact absurd ((dispatch_kind_eq_none_iff _).2 ⟨e, hsub⟩) hkind
    | ok i =>
      rw [decodeRest, headerRest, headerRest, dispatchOf, if_neg hkind, payloadRest, List.append_nil]
      simp only [hsub, ← eq_code_of_decodeSub hsub]
      rfl
  | unknown hkind =>
    obtain ⟨e, hsub⟩ := (dispatch_kind_eq_none_iff _).1 hkind
    rw [decodeRest, headerRest, headerRest, dispatchOf, if_pos hkind, payloadRest, List.append_nil]
    simp only [Regs.flagged, hsub]
    rfl
  | leave => rw [List.append_nil]; rfl

theorem FoundCase.rest {p : FoundPos} (h : FoundCase s p q g es) (hr : Reads s conf b) (ev : List Wires) :
    decodeRest conf b q { regs := g, events := ev ++ es } = foundRest conf b p { regs := s.regs, events := ev } := by
  have hend : s.endMarkerAt s.declaredEnd = endMarkerIn b s.regs.len.toNat s.regs.declaredEnd :=
    hr.agree.guarded (· == Config.ftEnd) _
  cases h with
  | complete hmark =>
    rw [hend] at hmark
    rw [decodeRest, foundRest, foundRest, verifyPart, List.append_nil, if_pos hmark]
    rfl
  | incomplete hmark =>
    rw [hend] at hmark
    rw [decodeRest, foundRest, foundRest, verifyPart, if_neg (by rw [hmark]; exact Bool.false_ne_true)]
    rfl
  | leave => rw [List.append_nil]; rfl

theorem trailerOf_of_present (b : Nat → Byte) {d : Decoded} (h : d.regs.toff.toNat < d.regs.len.toNat) :
    trailerOf b d = trailerRest b .compare {
      regs := { d.regs with csumDecl := b d.regs.toff.toNat }
      events := d.events ++ [fieldEvent d.regs.toff.toNat 1 .ftChecksum ((b d.regs.toff.toNat).setWidth 16)] } := by
  rw [trailerOf, trailerPart_present b d h]
  rfl

theorem trailerOf_of_absent (b : Nat → Byte) {d : Decoded} (h : d.regs.len.toNat ≤ d.regs.toff.toNat) :
    trailerOf b d = trailerRest b .endMark d := by
  rw [trailerOf, trailerPart_absent b d h, trailerRest, endMarkEvents, if_neg (by omega), Decoded.emit, List.append_nil]

theorem TrailerCase.rest {p : TrailerPos} (h : TrailerCase s p q g es) (hr : Reads s conf b)
    (hin : p = .compare → s.trailerOffset < s.regs.len.toNat) (ev : List Wires) :
    decodeRest conf b q { regs := g, events := ev ++ es } = trailerRest b p { regs := s.regs, events := ev } := by
  have hsum : p = .compare → s.frameSum = frameSumAt b s.regs.startOff.toNat s.regs.toff.toNat := fun hp => by
    have hlt := hin hp
    exact sumOf_congr fun k hk hlt' => hr.agree k (by omega)
  cases h with
  | declared hlen =>
    have hbyte : s.byteAt s.trailerOffset = b s.regs.toff.toNat := hr.agree _ hlen
    rw [hbyte]
    exact (trailerOf_of_present b (d := { regs := s.regs, events := ev }) hlen).symm
  | declaredAbsent hlen =>
    rw [List.append_nil]
    exact (trailerOf_of_absent b (d := { regs := s.regs, events := ev }) hlen).symm
  | matched hsame =>
    rw [hsum rfl] at hsame ⊢
    rw [decodeRest, trailerRest, trailerRest, mismatchEvents, if_pos hsame, beq_iff_eq.2 hsame]
    rfl
  | mismatched hdiffer =>
    rw [hsum rfl] at hdiffer ⊢
    rw [decodeRest, trailerRest, trailerRest, mismatchEvents, if_neg hdiffer, beq_eq_false_iff_ne.2 hdiffer]
    rfl
  | endMark hlen =>
    have hbyte : s.byteAt (s.trailerOffset + 1) = b (s.regs.toff.toNat + 1) := hr.agree _ hlen
    rw [hbyte, decodeRest, trailerRest, trailerRest, endMarkEvents,
      if_pos (show s.regs.toff.toNat + 1 < s.regs.len.toNat from hlen)]
    rfl
  | endMarkAbsent hlen =>
    rw [decodeRest, trailerRest, trailerRest, endMarkEvents, List.append_nil,
      if_neg (show ¬ s.regs.toff.toNat + 1 < s.regs.len.toNat from Nat.not_lt.2 hlen), Decoded.emit, List.append_nil]
  | leave => rw [List.append_nil]; rfl

/-- The loop writes SCAN_I before it reads anything, so its value on entry does not matter. -/
theorem scanFrom_scanI (b : Nat → Byte) (len i n : Nat) (g : Regs) (x : BitVec 3) :
    scanFrom b len i n { g with scanI := x } = scanFrom b len i n g := by
  cases n <;> rfl

theorem ScanCase.rest (h : ScanCase s q g) (hr : Reads s conf b) (hscan : s.regs.scanI.toNat ≤ 5) (ev : List Wires) :
    decodeRest conf b q { regs := g, events := ev } = scanRest conf b { regs := s.regs, events := ev } := by
  have hpasses : s.passes s.regs.scanI.toNat = passesAt b s.regs.len.toNat s.regs.scanI.toNat := hr.agree.passesAt _
  have hmarked : s.ftFoundAt s.regs.scanI.toNat = markedAt b s.regs.len.toNat s.regs.scanI.toNat := hr.agree.markedAt _
  have hself : BitVec.ofNat 3 s.regs.scanI.toNat = s.regs.scanI := by
    rw [BitVec.ofNat_toNat, BitVec.setWidth_eq]
  cases h with
  | short hlen => exact (if_pos hlen).symm
  | exhausted hlen hend =>
    refine Eq.trans ?_ (if_neg (Nat.not_lt.2 hlen)).symm
    rw [Nat.sub_eq_zero_of_le hend, scanFrom, hself]
    rfl
  | accepted hlen hi hpass =>
    obtain ⟨left, hleft⟩ := Nat.exists_eq_add_of_lt hi
    have hfits := State.passes_fits hpass
    rw [hpasses] at hpass
    refine Eq.trans ?_ (if_neg (Nat.not_lt.2 hlen)).symm
    rw [show 5 - s.regs.scanI.toNat = left + 1 by omega, scanFrom, if_pos hpass, hmarked,
      hr.agree _ (show s.regs.scanI.toNat + 1 < _ by omega), hr.again _ (show s.regs.scanI.toNat + 4 < _ by omega)]
    simp only [decodeRest, scanAnswer, acceptedAt, hself]
  | rejected hlen hi hpass =>
    obtain ⟨left, hleft⟩ := Nat.exists_eq_add_of_lt hi
    have hnext : (BitVec.ofNat 3 (s.regs.scanI.toNat + 1)).toNat = s.regs.scanI.toNat + 1 := scanI_toNat hi
    rw [hpasses] at hpass
    refine (if_neg (Nat.not_lt.2 hlen)).trans (Eq.trans ?_ (if_neg (Nat.not_lt.2 hlen)).symm)
    refine congrArg (scanAnswer conf b ev) ?_
    rw [show 5 - s.regs.scanI.toNat = left + 1 by omega, scanFrom, if_neg (by rw [hpass]; exact Bool.false_ne_true)]
    dsimp only
    rw [hnext, show 5 - (s.regs.scanI.toNat + 1) = left by omega, hmarked]
    exact scanFrom_scanI b _ _ _
      { s.regs with
        scanI := BitVec.ofNat 3 s.regs.scanI.toNat, ftFound := markedAt b s.regs.len.toNat s.regs.scanI.toNat } _

/-- A body's unit leads to a position of the body or to the trailer. -/
theorem BodyCase.next {p : BodyPos} (h : BodyCase m s p q g es) : (∃ r, q = .payload r) ∨ q = .trailer .declared := by
  cases h with
  | leave => exact .inr rfl
  | startId | count | errorCode | selectNothing | selectRecords | filter | selectAbsent | startIdAbsent | countAbsent
  | recordAbsent | rawDataAbsent | noRecords | recordsEnd | recordFits | lead | leadEnd | rawData | view | advance =>
    exact .inl ⟨_, rfl⟩

/-- A unit of work does the first part of what is left for DECODE to do. -/
theorem UnitCase.rest (h : UnitCase s q g es) (hs : Sound s) (hr : Reads s conf b) (ev : List Wires) :
    decodeRest conf b q { regs := g, events := ev ++ es } =
      decodeRest conf b s.pos { regs := s.regs, events := ev } := by
  have hplaced := hs.placed
  cases h with
  | scan hpos hcase =>
    rw [hpos, List.append_nil]
    exact hcase.rest hr hs.scan ev
  | found hpos hcase =>
    rw [hpos]
    exact hcase.rest hr ev
  | header hpos hcase =>
    rw [hpos]
    exact hcase.rest hr ev
  | noBody e hpos hsub =>
    rw [hpos, List.append_nil, decodeRest, decodeRest, payloadRest, hsub]
    rfl
  | @trailer p q g es hpos hcase =>
    rw [hpos]
    refine hcase.rest hr (fun hp => ?_) ev
    obtain ⟨_, _, _, hthere⟩ : Located s ∧ ControlKept s ∧ TrailerSet s ∧ TrailerPlaced s p := by
      simpa only [Placed, hpos] using hplaced
    rw [hp] at hthere
    exact hthere.2
  | @body p q g es i hpos hsub hcase =>
    obtain ⟨_, _, _, _, hthere⟩ : Located s ∧ ControlKept s ∧ TrailerSet s ∧ NotCompared s ∧ BodyPlaced s p := by
      simpa only [Placed, hpos] using hplaced
    have hshape : ∀ sh, shapeOf conf (dispatch i.code).kind = some sh → s.shape = some sh := fun sh h => by
      rw [State.shape_eq hsub, hr.params, h]
    have hrest := hcase.rest hr (fun sh hsh hp => by rw [hp] at hthere; exact hthere.2 sh (hshape sh hsh))
      (fun sh n hsh hp => by rw [hp] at hthere; exact hthere.2 sh (hshape sh hsh)) ev
    rw [hpos, decodeRest_payload p hsub, ← hrest]
    obtain ⟨r, rfl⟩ | rfl := hcase.next
    · exact decodeRest_payload r (by rw [hcase.keeps.sub, hsub]) _
    · rfl

end Sys2Proof.Machine
end

section
/-!
SUPPORT. A whole run: along it what DECODE makes of the registers and the events so far stays what it made of the start
(45_orchestration.md R276), whatever the sink and the latency oracle do.
-/

namespace Sys2Proof.Machine

variable {conf : Params} {b : Nat → Byte} {D : Decoded} {old : List Wires} {s : State}

/-- A running transaction on an undisturbed, backed buffer that will end with `D`, after the events `old` of before. -/
structure Follows (conf : Params) (b : Nat → Byte) (D : Decoded) (old : List Wires) (s : State) : Prop where
  sound : Sound s
  params : s.params = conf
  stable : s.unstable = false
  backed : ∀ a, a < s.regs.len.toNat → Memory.read s.buf a = some (b a)
  rest : ∃ ev, s.trace = old ++ ev ∧ decodeRest conf b s.pos { regs := s.regs, events := ev } = D

theorem Follows.reads (h : Follows conf b D old s) : Reads s conf b where
  params := h.params
  agree a ha := by simp only [State.byteAt, h.stable, h.backed a ha, Option.getD_some, Bool.false_eq_true, if_false]
  again a ha := by simp only [State.byteAgain, h.stable, h.backed a ha, Option.getD_some, Bool.false_eq_true, if_false]

/-- What leaves the block's registers and its surroundings alone and loses no event changes nothing for `D`. -/
theorem Follows.of_same {t : State} (h : Follows conf b D old s) (hsound : Sound t) (hregs : t.regs = s.regs)
    (hpos : t.pos = s.pos) (hbuf : t.buf = s.buf) (hparams : t.params = s.params) (hunstable : t.unstable = s.unstable)
    (htrace : t.trace = s.trace) : Follows conf b D old t where
  sound := hsound
  params := hparams.trans h.params
  stable := hunstable.trans h.stable
  backed := by rw [hregs, hbuf]; exact h.backed
  rest := by rw [htrace, hpos, hregs]; exact h.rest

theorem Follows.cycle {u : State} (h : Follows conf b D old s) (hrst : s.pins.rst = false) (hbusy : s.pos.busy = true)
    (hcase : CycleCase s u) : Follows conf b D old u := by
  have hsound := hcase.sound h.sound
  cases hcase with
  | reset hset => rw [hrst] at hset; cases hset
  | stall | wait => exact h
  | accept _ hvalid => exact h.of_same hsound rfl rfl rfl rfl rfl (s.trace_accept hvalid)
  | present =>
    exact h.of_same hsound s.present_regs s.present_pos s.present_buf s.present_params s.present_unstable s.trace_present
  | start _ _ hidle | rest _ _ hidle => rw [hbusy] at hidle; cases hidle
  | work u _ _ _ _ hwork =>
    obtain ⟨q, g, es, hunit, hmoved⟩ := workUnit_moved hbusy hwork
    obtain ⟨ev, htrace, hrest⟩ := h.rest
    exact {
      sound := hsound
      params := hmoved.around.params.trans h.params
      stable := hmoved.around.unstable.trans h.stable
      backed := by rw [hmoved.regs, hunit.len, hmoved.around.buf]; exact h.backed
      rest := ⟨ev ++ es, by rw [hmoved.trace, htrace, List.append_assoc], by
        rw [hmoved.pos, hmoved.regs, hunit.rest h.sound h.reads, hrest]⟩ }

theorem Follows.elapse (h : Follows conf b D old s) : Follows conf b D old s.elapse :=
  h.of_same h.sound.elapse s.elapse_regs s.elapse_pos s.elapse_buf s.elapse_params s.elapse_unstable s.trace_elapse

/-- A run in which the host neither resets nor stores. -/
theorem Follows.run {n : Nat} {t : State} (h : Follows conf b D old s) (hquiet : ∀ p ∈ s.pins :: s.script, p.quiet)
    (hrun : runsTo n s t) (hbusy : ∀ k u, k < n → runsTo k s u → u.pos.busy = true) : Follows conf b D old t := by
  induction n generalizing s with
  | zero => exact (runsTo_zero_iff s t).1 hrun ▸ h
  | succ n ih =>
    obtain ⟨u, hstep, hrun'⟩ := (runsTo_succ_iff n s t).1 hrun
    obtain ⟨hrst, hstore⟩ := hquiet _ List.mem_cons_self
    obtain ⟨v, hcase, rfl⟩ := step_cases hstep
    rw [State.hostStore_of_none s hstore] at hcase
    obtain ⟨hpins, hscript⟩ := hcase.levels
    refine ih (h.cycle hrst (hbusy 0 s (Nat.succ_pos n) rfl) hcase).elapse
      (State.elapse_levels (P := Pins.quiet) (fun p hp => hp) (by rwa [hpins, hscript])) hrun' fun k w hk hw => ?_
    exact hbusy (k + 1) w (Nat.succ_lt_succ hk) (runsTo_succ hstep hw)

/-- A transaction that has ended has ended with `D`. -/
theorem Follows.ended (h : Follows conf b D old s) (hdone : s.pos = .done) :
    s.regs = D.regs ∧ s.sink = old ++ D.events := by
  obtain ⟨ev, htrace, hrest⟩ := h.rest
  rw [hdone] at hrest
  subst hrest
  rw [s.trace_of_free (h.sound.quiet (by rw [hdone]; rfl))] at htrace
  exact ⟨rfl, htrace⟩

/-- An accepted START begins a transaction that will end with DECODE's outcome. -/
theorem follows_of_start (hfree : s.free) (hquiet : ∀ p ∈ s.pins :: s.script, p.quiet)
    (hbacked : ∀ a, a < s.pins.lenIn.toNat → Memory.read s.buf a = some (b a)) :
    Follows s.params b (decodeTransaction s.params b s.pins.lenIn) s.sink s.beginTransaction.elapse := by
  have hfree' : s.beginTransaction.free := hfree
  have hsound := sound_scanning (s := s.beginTransaction) s.pins.lenIn rfl rfl (State.waiting_of_free _ hfree')
  have hstable := beginTransaction_stable fun p hp => (hquiet p hp).2
  have hfollows : Follows s.params b (decodeTransaction s.params b s.pins.lenIn) s.sink s.beginTransaction :=
    ⟨hsound, rfl, hstable, hbacked, [], by rw [State.trace_of_free _ hfree', List.append_nil]; rfl,
      decodeRest_start s.params b s.pins.lenIn⟩
  exact hfollows.elapse

/-- Settles O52: START begins a run that follows DECODE (`follows_of_start`), every step keeps following it
(`Follows.run`), and in DONE what is followed has been reached (`Follows.ended`). -/
theorem runsRefineDecode : Obligations.RunsRefineDecode := by
  intro n s t hpos hfree hstart hquiet hbacked hn hrun hdone hbusy
  obtain ⟨hrst, hstore⟩ := hquiet _ List.mem_cons_self
  obtain ⟨n, rfl⟩ := Nat.exists_eq_add_of_le' hn
  obtain ⟨u, hstep, hrun'⟩ := (runsTo_succ_iff n s t).1 hrun
  have hbegin := step_of_start hpos hfree.1 hrst hstart
  rw [State.hostStore_of_none s hstore] at hbegin
  obtain rfl : s.beginTransaction.elapse = u := Host.Outcome.next.inj (hbegin.symm.trans hstep)
  have hbytes : ∀ a, a < s.pins.lenIn.toNat → Memory.read s.buf a = some ((Memory.read s.buf a).getD 0) := fun a ha => by
    obtain ⟨x, hx⟩ := Option.isSome_iff_exists.1 (hbacked.2 a ha)
    rw [hx, Option.getD_some]
  have hfollows := follows_of_start hfree hquiet hbytes
  refine (hfollows.run (State.elapse_levels (P := Pins.quiet) (fun p hp => hp) hquiet) hrun' fun k w hk hw => ?_).ended
    hdone
  exact hbusy (k + 1) w (Nat.succ_pos k) (Nat.succ_lt_succ hk) (runsTo_succ hstep hw)

end Sys2Proof.Machine
end

section
/-!
SUPPORT. The records of the other list kinds (44_record_streams.md R220-R245): each kind's length field, fields and views,
read off its shape, and one record as the two ways it can go.
-/

namespace Sys2Proof.Machine

/-! ### Bit ranges as quotients and remainders (30_encoding.md R99) -/

theorem bitsOf_toNat {r : BitRange} (hr : r.hi + 1 - r.lo ≤ 16) (v : Word) :
    (bitsOf r v).toNat = v.toNat / 2 ^ r.lo % 2 ^ (r.hi + 1 - r.lo) := by
  have hpow : 2 ^ (r.hi + 1 - r.lo) ≤ 2 ^ 16 := Nat.pow_le_pow_right (by decide) hr
  have hpos : 0 < 2 ^ (r.hi + 1 - r.lo) := Nat.two_pow_pos _
  rw [bitsOf, BitVec.toNat_and, BitVec.toNat_ushiftRight, BitVec.toNat_ofNat, Nat.mod_eq_of_lt (by omega),
    Nat.shiftRight_eq_div_pow, Nat.and_two_pow_sub_one_eq_mod]

/-- A bit range of a word, where the quotient and the remainder are those of its bounds. -/
theorem bitsOf_eq {r : BitRange} {v w : Word} (hr : r.hi + 1 - r.lo ≤ 16)
    (h : w.toNat = v.toNat / 2 ^ r.lo % 2 ^ (r.hi + 1 - r.lo)) : bitsOf r v = w :=
  BitVec.eq_of_toNat_eq ((bitsOf_toNat hr v).trans h.symm)

/-- Bit `k` of a word (k below 16). -/
theorem bitsOf_bit (v : Word) {k : Nat} (hk : k < 15) : bitsOf ⟨k, k⟩ v = v / BitVec.ofNat 16 (2 ^ k) % 2 := by
  refine bitsOf_eq (by simp) ?_
  have hpow : 2 ^ k < 2 ^ 16 := Nat.pow_lt_pow_right (by decide) (by omega)
  rw [BitVec.toNat_umod, BitVec.toNat_udiv, BitVec.toNat_ofNat, Nat.mod_eq_of_lt hpow]
  simp

/-- The low `k` bits of a word. -/
theorem bitsOf_low (v : Word) {k : Nat} (hk : k < 15) :
    bitsOf ⟨k, 0⟩ v = v % BitVec.ofNat 16 (2 ^ (k + 1)) := by
  refine bitsOf_eq (by simp; omega) ?_
  have hpow : 2 ^ (k + 1) < 2 ^ 16 := Nat.pow_lt_pow_right (by decide) (by omega)
  rw [BitVec.toNat_umod, BitVec.toNat_ofNat, Nat.mod_eq_of_lt hpow]
  simp

theorem toNat_setWidth_byte (x : Byte) : (x.setWidth 16).toNat = x.toNat :=
  BitVec.toNat_setWidth_of_le (by decide)

/-! ### One record -/

/-- A record whose leading part fits goes one of two ways: present as a whole (`bodyLeads_record`), or with its variable part
cut (`bodyLeads_truncatedRecord`). -/
theorem bodyLeads_of_prefix {i : Instr} {s : State} {sh : Shape} {size n : Nat} {fixed tail : List Wires}
    (hshape : shapeOf s.params (kindTable i) = some sh) (hpos : s.pos = .payload .record) (hfree : s.free)
    (hleft : s.regs.idx.toNat < s.regs.count.toNat) (hsize : sh.size = size)
    (hprefix : s.regs.cur.toNat + size ≤ s.regs.len.toNat) (hn : lengthAt s.byteAt sh s.regs.cur.toNat = n)
    (hlead : leadPart s.byteAt sh s.regs.cur.toNat = fixed)
    (htail : variableEvents sh s.regs.cur.toNat n ++ viewPart s.byteAt s.params.siType sh s.regs.cur.toNat n = tail) :
    if s.regs.cur.toNat + size + n ≤ s.regs.len.toNat then
      BodyLeads i s .record (s.regs.advanced (size + n)) (fixed ++ tail)
    else BodyLeads i s .leave (s.regs.flagged .trunc) fixed := by
  subst hsize hlead htail
  split
  case isTrue hfits =>
    rw [← List.append_assoc]
    exact bodyLeads_record hshape hpos hfree hleft hn hfits
  case isFalse hcut => exact bodyLeads_truncatedRecord hshape hpos hfree hleft hprefix hn hcut

/-! ### Server items -/

section ServerItem

variable {conf : Params} {sh : Shape} (hshape : shapeOf conf .serverItems = some sh) (b : Nat → Byte) (c : Nat)

include hshape

theorem size_serverItem : sh.size = 3 := by
  cases hshape
  rfl

theorem lengthAt_serverItem : lengthAt b sh c = (b (c + 2)).toNat := by
  cases hshape
  exact toNat_setWidth_byte (b (c + 2))

theorem leadPart_serverItem :
    leadPart b sh c = [fieldEvent c 2 .siId (beWord b c), fieldEvent (c + 2) 1 .siLength ((b (c + 2)).setWidth 16)] := by
  cases hshape
  rfl

theorem variableEvents_serverItem (n : Nat) : variableEvents sh c n = [rawEvent (c + 3) n .siData] := by
  cases hshape
  rfl

theorem viewPart_serverItem (table : List (Nat × ViewType)) (n : Nat) :
    viewPart b table sh c n =
      if (viewOf table (beWord b c).toNat).width = some n then
        subEvents (viewOf table (beWord b c).toNat).layout (c + 3) n (fieldValue b (c + 3) n)
      else [] := by
  cases hshape
  by_cases hwidth : (viewOf table (beWord b c).toNat).width = some n
  · simp only [viewPart, appliedView, if_true, hwidth, viewEvents]
  · simp only [viewPart, appliedView, if_true, hwidth, if_false]

end ServerItem

/-- The sub-fields of each type of server item data as quotients and remainders (R226-R229). -/
theorem subEvents_version (off n : Nat) (x : Byte) :
    subEvents ViewType.version.layout off n (x.setWidth 16) =
      [fieldEvent off n .siVerMajor (x.setWidth 16 / 16), fieldEvent off n .siVerMinor (x.setWidth 16 % 16)] := by
  have hx := x.isLt
  have hmajor : bitsOf ⟨7, 4⟩ (x.setWidth 16) = x.setWidth 16 / 16 := bitsOf_eq (by decide) (by
    rw [BitVec.toNat_udiv, toNat_setWidth_byte, Nat.mod_eq_of_lt (by simp; omega)]
    rfl)
  have hminor : bitsOf ⟨3, 0⟩ (x.setWidth 16) = x.setWidth 16 % 16 := bitsOf_low _ (by decide)
  rw [← hmajor, ← hminor]
  rfl

theorem subEvents_flag (off n : Nat) (v : Word) :
    subEvents ViewType.flag.layout off n v = [fieldEvent off n .siFlag (v % 2)] := by
  have hbit : bitsOf ⟨0, 0⟩ v = v % 2 := bitsOf_low v (by decide)
  rw [← hbit]
  rfl

theorem subEvents_baud (off n : Nat) (x : Byte) :
    subEvents ViewType.baud.layout off n (x.setWidth 16) = [fieldEvent off n .siBaudrate (x.setWidth 16)] := by
  have hx := x.isLt
  have hwhole : bitsOf ⟨7, 0⟩ (x.setWidth 16) = x.setWidth 16 := bitsOf_eq (by decide) (by
    rw [toNat_setWidth_byte, Nat.mod_eq_of_lt (by simp; omega)]
    simp)
  exact congrArg (fun v => [fieldEvent off n .siBaudrate v]) hwhole

theorem subEvents_address (off n : Nat) (v : Word) :
    subEvents ViewType.address.layout off n v =
      [fieldEvent off n .siAddrArea (v / 4096), fieldEvent off n .siAddrLine (v / 256 % 16),
        fieldEvent off n .siAddrDevice (v % 256)] := by
  have hv := v.isLt
  have harea : bitsOf ⟨15, 12⟩ v = v / 4096 := bitsOf_eq (by decide) (by
    rw [BitVec.toNat_udiv, Nat.mod_eq_of_lt (by simp; omega)]
    rfl)
  have hline : bitsOf ⟨11, 8⟩ v = v / 256 % 16 := bitsOf_eq (by decide) (by
    rw [BitVec.toNat_umod, BitVec.toNat_udiv]
    rfl)
  have hdevice : bitsOf ⟨7, 0⟩ v = v % 256 := bitsOf_low v (by decide)
  rw [← harea, ← hline, ← hdevice]
  rfl

/-- The view of a server item by its type and length (R225-R229). -/
def serverItemView (type : ViewType) (off n : Nat) (d v : Word) : List Wires :=
  if n = 1 ∧ type = .version then [fieldEvent off 1 .siVerMajor (d / 16), fieldEvent off 1 .siVerMinor (d % 16)]
  else if n = 1 ∧ type = .flag then [fieldEvent off 1 .siFlag (d % 2)]
  else if n = 1 ∧ type = .baud then [fieldEvent off 1 .siBaudrate d]
  else if n = 2 ∧ type = .address then
    [fieldEvent off 2 .siAddrArea (v / 4096), fieldEvent off 2 .siAddrLine (v / 256 % 16),
      fieldEvent off 2 .siAddrDevice (v % 256)]
  else []

theorem serverItemView_eq (type : ViewType) (b : Nat → Byte) (off n : Nat) :
    (if type.width = some n then subEvents type.layout off n (fieldValue b off n) else []) =
      serverItemView type off n ((b off).setWidth 16) (beWord b off) := by
  cases type with
  | raw => simp [serverItemView, ViewType.width]
  | version =>
    by_cases hn : n = 1
    · subst hn; exact subEvents_version off 1 (b off)
    · simp [serverItemView, ViewType.width, hn, Ne.symm hn]
  | flag =>
    by_cases hn : n = 1
    · subst hn; exact subEvents_flag off 1 _
    · simp [serverItemView, ViewType.width, hn, Ne.symm hn]
  | baud =>
    by_cases hn : n = 1
    · subst hn; exact subEvents_baud off 1 (b off)
    · simp [serverItemView, ViewType.width, hn, Ne.symm hn]
  | address =>
    by_cases hn : n = 2
    · subst hn; exact subEvents_address off 2 _
    · simp [serverItemView, ViewType.width, hn, Ne.symm hn]

/-- The decided table of R225. -/
theorem viewOf_decided (k : Nat) : viewOf pSiType k =
    if k ∈ [2, 3, 7, 16, 18, 19] then .version else if k ∈ [10, 15, 17] then .flag
    else if k = 13 then .baud else if k = 20 then .address else .raw := by
  by_cases hk : k ≤ 20
  · interval_cases k <;> rfl
  · have hnone : pSiType.lookup k = none := by
      refine List.lookup_eq_none_iff.2 fun p hp => ?_
      have hsmall : ∀ p ∈ pSiType, p.1 ≤ 20 := by decide
      have hle := hsmall p hp
      have hne : k ≠ p.1 := by omega
      exact bne_iff_ne.2 hne
    have hout : ∀ l : List Nat, (∀ x ∈ l, x ≤ 20) → k ∉ l := fun l hl hmem => hk (hl k hmem)
    rw [viewOf, hnone, if_neg (hout _ (by decide)), if_neg (hout _ (by decide)), if_neg (by omega), if_neg (by omega)]
    rfl

theorem kindTable_serverItem :
    ∀ i ∈ [Instr.setServerItemReq, .getServerItemRes, .serverItemInd], kindTable i = .serverItems := by decide

/-- Settles O25: the shape of server items (R220) in `bodyLeads_of_prefix`, with the view of `serverItemView_eq` and the
decided table of `viewOf_decided`. -/
theorem serverItemRecord : Obligations.ServerItemRecord := by
  intro i s hmem hpos hfree hleft c id n d v type fixed view
  have hkind := kindTable_serverItem i hmem
  obtain ⟨sh, hshape⟩ : ∃ sh, shapeOf s.params .serverItems = some sh := ⟨_, rfl⟩
  have hlead : leadPart s.byteAt sh c = fixed := by
    rw [leadPart_serverItem hshape, ← BitVec.ofNat_toNat 16 (s.byteAt (c + 2))]
    rfl
  have hview : viewPart s.byteAt s.params.siType sh c n = view := by
    rw [viewPart_serverItem hshape]
    exact serverItemView_eq type s.byteAt (c + 3) n
  refine ⟨fun hprefix => ?_, fun hparams => ?_⟩
  · have hrecord := bodyLeads_of_prefix (hkind ▸ hshape) hpos hfree hleft (size_serverItem hshape) hprefix
      (lengthAt_serverItem hshape _ _) hlead (congrArg₂ (· ++ ·) (variableEvents_serverItem hshape c n) hview)
    rwa [← List.append_assoc] at hrecord
  · have htype : type = viewOf pSiType id.toNat := by rw [show type = viewOf s.params.siType id.toNat from rfl, hparams]; rfl
    rw [htype]
    exact viewOf_decided id.toNat

/-! ### Datapoint values in state form -/

section StateRecord

variable {conf : Params} {sh : Shape} (hshape : shapeOf conf .dpValueState = some sh) (b : Nat → Byte) (c : Nat)

include hshape

theorem size_state : sh.size = 4 := by
  cases hshape
  rfl

theorem lengthAt_state : lengthAt b sh c = (b (c + 3)).toNat := by
  cases hshape
  exact toNat_setWidth_byte (b (c + 3))

/-- R230, R231: the id, the state byte with its four fields, the length. -/
theorem leadPart_state :
    leadPart b sh c =
      [fieldEvent c 2 .dpId (beWord b c)] ++
        (fieldEvent (c + 2) 1 .dpState ((b (c + 2)).setWidth 16) ::
          subEvents (stateFields conf.dpState) (c + 2) 1 ((b (c + 2)).setWidth 16)) ++
        [fieldEvent (c + 3) 1 .dpLength ((b (c + 3)).setWidth 16)] := by
  cases hshape
  rfl

theorem variableEvents_state (n : Nat) : variableEvents sh c n = [rawEvent (c + 4) n .dpValue] := by
  cases hshape
  rfl

theorem viewPart_state (table : List (Nat × ViewType)) (n : Nat) : viewPart b table sh c n = [] := by
  cases hshape
  rfl

end StateRecord

theorem kindTable_state : ∀ i ∈ [Instr.getDatapointValueRes, .datapointValueInd], kindTable i = .dpValueState := by decide

/-- Settles O26: the shape of the state form (R230) in `bodyLeads_of_prefix`, and the decided places as single bits. -/
theorem datapointStateRecord : Obligations.DatapointStateRecord := by
  intro i s hmem hpos hfree hleft c id st n l fixed
  have hkind := kindTable_state i hmem
  obtain ⟨sh, hshape⟩ : ∃ sh, shapeOf s.params .dpValueState = some sh := ⟨_, rfl⟩
  have hlead : leadPart s.byteAt sh c = fixed := by
    rw [leadPart_state hshape, ← BitVec.ofNat_toNat 16 (s.byteAt (c + 3))]
    rfl
  refine ⟨fun hprefix => ?_, fun hparams => ?_⟩
  · exact bodyLeads_of_prefix (hkind ▸ hshape) hpos hfree hleft (size_state hshape) hprefix (lengthAt_state hshape _ _)
      hlead (congrArg₂ (· ++ ·) (variableEvents_state hshape c n) (viewPart_state hshape _ c _ n))
  · have hl : l = pDpStateLayout := by rw [show l = s.params.dpState from rfl, hparams]; rfl
    simp (disch := decide) only [hl, pDpStateLayout, List.map_cons, List.map_nil, bitsOf_low]
    simp (disch := decide) only [bitsOf_bit]
    rfl

/-! ### Records of a fixed stride -/

section Descriptor

variable {conf : Params} {sh : Shape} (hshape : shapeOf conf .dpDescriptor = some sh) (b : Nat → Byte) (c : Nat)

include hshape

/-- R235, R236: the id, the value type, the config flags with their seven fields, the datapoint type. -/
theorem leadPart_descriptor :
    leadPart b sh c =
      [fieldEvent c 2 .dpId (beWord b c), fieldEvent (c + 2) 1 .ddValueType ((b (c + 2)).setWidth 16)] ++
        (fieldEvent (c + 3) 1 .ddConfig ((b (c + 3)).setWidth 16) ::
          subEvents (configFields conf.cfg) (c + 3) 1 ((b (c + 3)).setWidth 16)) ++
        [fieldEvent (c + 4) 1 .ddDpt ((b (c + 4)).setWidth 16)] := by
  cases hshape
  rfl

end Descriptor

/-- A kind without a variable part and without views: a record is its leading fields. -/
theorem bodyLeads_fixed {i : Instr} {s : State} {sh : Shape} {fixed : List Wires}
    (hshape : shapeOf s.params (kindTable i) = some sh) (hpos : s.pos = .payload .record) (hfree : s.free)
    (hleft : s.regs.idx.toNat < s.regs.count.toNat) (hlen : sh.lenField = none) (hvar : sh.varTag = none)
    (htyped : sh.typed = false) (hfits : s.regs.cur.toNat + sh.size ≤ s.regs.len.toNat)
    (hlead : leadPart s.byteAt sh s.regs.cur.toNat = fixed) :
    BodyLeads i s .record (s.regs.advanced sh.size) fixed := by
  have hn : lengthAt s.byteAt sh s.regs.cur.toNat = 0 := by rw [lengthAt, hlen]
  have htail : variableEvents sh s.regs.cur.toNat 0 ++ viewPart s.byteAt s.params.siType sh s.regs.cur.toNat 0 = [] := by
    simp only [variableEvents, hvar, viewPart, htyped, Bool.false_eq_true, if_false, List.append_nil]
  have hrecord := bodyLeads_of_prefix hshape hpos hfree hleft rfl hfits hn hlead htail
  rw [Nat.add_zero, if_pos hfits, List.append_nil] at hrecord
  exact hrecord

/-- Settles O28: the two shapes without a variable part (`bodyLeads_fixed`), and the decided places of the config flags
as two bits and six. -/
theorem fixedStrideRecords : Obligations.FixedStrideRecords := by
  intro s hpos hfree hleft c id cf l
  refine ⟨fun hfits => ?_, fun hfits => ?_, fun hparams => ?_⟩
  · exact bodyLeads_fixed (i := .getDatapointDescriptionRes) rfl hpos hfree hleft rfl rfl rfl hfits
      (leadPart_descriptor (conf := s.params) rfl s.byteAt c)
  · exact bodyLeads_fixed (i := .getParameterByteRes) rfl hpos hfree hleft rfl rfl rfl hfits rfl
  · have hl : l = pCfgLayout := by rw [show l = s.params.cfg from rfl, hparams]; rfl
    simp (disch := decide) only [hl, pCfgLayout, List.map_cons, List.map_nil, bitsOf_low]
    simp (disch := decide) only [bitsOf_bit]
    rfl

/-! ### Description strings -/

/-- Settles O29: the shape of description strings (R240) in `bodyLeads_of_prefix`. -/
theorem descriptionStringRecord : Obligations.DescriptionStringRecord := by
  intro s hpos hfree hleft c len n hprefix
  exact bodyLeads_of_prefix (i := .getDescriptionStringRes) (tail := [rawEvent (c + 2) n .dsText]) rfl hpos hfree hleft
    rfl hprefix rfl rfl rfl

end Sys2Proof.Machine
end
